-- ==== Sys2Proof/Word.lean ====
section
/-! DEFINITION. The two widths of the machine (spec/00_scope.md R6, R12): data of 8 bits, addresses of 16 bits. -/

namespace Sys2Proof

/-- A byte: 8 bits, bit 0 the least significant (R12). -/
abbrev Byte := BitVec 8

/-- A 16-bit word: an address or the program counter (R6, R23). Its `+` and `-` wrap modulo `0x10000`. -/
abbrev Word := BitVec 16

end Sys2Proof
end

