-- ==== Sys2Proof/Machine/Bits.lean ====
section
/-! DEFINITION. Byte order, bit fields and sign extension (spec/00_scope.md R12, spec/20_memory.md R42, R46,
spec/40_step_and_addressing.md R93). -/

namespace Sys2Proof.Machine

/-- The little-endian word of two bytes: `lo | (hi << 8)` (R42). -/
def leWord (lo hi : Byte) : Word := hi ++ lo

/-- `hi(w) = (w >> 8) & 0xFF` (R12). -/
def hiByte (w : Word) : Byte := w.extractLsb' 8 8

/-- `lo(w) = w & 0xFF` (R12). -/
def loByte (w : Word) : Byte := w.extractLsb' 0 8

/-- `page(w) = w & 0xFF00` (R12). -/
def pageOf (w : Word) : Word := w &&& 0xFF00#16

/-- A byte read as an unsigned 16-bit number (R12: all values are unsigned unless a rule says signed). -/
def zext (b : Byte) : Word := b.setWidth 16

/-- A flag as the number 0 or 1 (R12: flags are one bit each). -/
def bitNat (b : Bool) : Nat := if b then 1 else 0

/-- The low nibble of a byte, `b & 0x0F` (R172, R175). -/
def lowNibble (b : Byte) : Nat := b.toNat % 16

/-- The high nibble of a byte, `b >> 4` (R172, R175). -/
def highNibble (b : Byte) : Nat := b.toNat / 16

/-- The byte of two nibbles, each masked to four bits: `((hi & 0x0F) << 4) | (lo & 0x0F)` (R172). -/
def nibblePair (hi lo : Nat) : Byte := BitVec.ofNat 8 ((hi % 16) * 16 + lo % 16)

/-- The branch target (R93), in the rule's two arms: a displacement with its high bit clear is added to `next`;
one with it set gives `next - (d ^ 0xFF) - 1`. -/
def branchTarget (next : Word) (d : Byte) : Word :=
  if d.toNat < 0x80 then next + zext d else next - zext (d ^^^ 0xFF#8) - 1#16

end Sys2Proof.Machine
end

