-- ==== Sys2Proof/Config.lean ====
section
/-! DEFINITION. The implementation parameters the spec leaves open (spec/00_scope.md R7, R8, R10).
They are fixed for a run. A statement about every state is a statement about every choice of them, because
the state carries them in a field that no step changes (notes/assumptions/1.md). `MEM_INIT` (R11) is the memory
of the launch state, and `HALT` (R9) is an argument of the run loop in Machine/HostOps.lean. -/

namespace Sys2Proof

/-- Parameter `UNKNOWN_POLICY` (R10): what an unknown opcode does. -/
inductive UnknownPolicy where
  /-- The reference behaviour: skip one extra byte (R211). -/
  | skip
  /-- The strict policy: the model records a fault and stops (R211, R222). -/
  | fault
deriving DecidableEq, Repr

/-- The construction-time parameters of one core. -/
structure Config where
  /-- `RESET_PC` (R7): the start address that `reset` loads into `PC`. -/
  resetPc : Word
  /-- `ADDCYCLES` (R8): whether the resolver charges page crossings to `excycles`. -/
  addCycles : Bool
  /-- `UNKNOWN_POLICY` (R10). -/
  unknownPolicy : UnknownPolicy
deriving DecidableEq, Repr

/-- The parameters of `State.reset`. `UNKNOWN_POLICY = skip` is the spec's default (R10, decision D5).
DESIGN CHOICE (notes/assumptions/2.md): `RESET_PC = 0x0200` and `ADDCYCLES = 1`, which the spec leaves open;
they are the values its own vectors and programs use (spec/95_test_vectors.md). -/
def Config.launch : Config where
  resetPc := 0x0200#16
  addCycles := true
  unknownPolicy := .skip

end Sys2Proof
end

