-- ==== Sys2Proof/Syntax.lean ====
section
/-! DEFINITION. The instructions (spec/30_encoding.md R60 to R65, spec/00_scope.md R3).
One constructor per mnemonic and rule; the rows of spec/opcode_table.json that share a mnemonic and a rule
differ in the addressing mode only, which is the constructor's `Operand` (notes/assumptions/3.md). Every row of
the table, the 91 unknown opcodes among them, is one term up to its operand bytes. -/

namespace Sys2Proof

/-- The addressing modes of R61. -/
inductive Mode where
  | imp | acc | imm | zp | zpx | zpy | abs | absx | absy | indx | indy | zpi | rel | ind | unknown
deriving DecidableEq, Repr

/-- The operand of an instruction that resolves to an operand descriptor (R81 to R92), with the operand
bytes as the instruction holds them (R62): `ll` a one-byte operand, `hhll` a two-byte operand. -/
inductive Operand where
  /-- `A`: operate on the accumulator (R82). -/
  | acc
  /-- `#$ll`: the operand byte is the datum (R83). -/
  | imm (ll : Byte)
  /-- `$ll` (R84). -/
  | zp (ll : Byte)
  /-- `$ll,X` (R85). -/
  | zpx (ll : Byte)
  /-- `$ll,Y` (R86). -/
  | zpy (ll : Byte)
  /-- `$hhll` (R87). -/
  | abs (hhll : Word)
  /-- `$hhll,X` (R88). -/
  | absx (hhll : Word)
  /-- `$hhll,Y` (R89). -/
  | absy (hhll : Word)
  /-- `($ll,X)` (R90). -/
  | indx (ll : Byte)
  /-- `($ll),Y` (R91). -/
  | indy (ll : Byte)
  /-- `($ll)`, the 65C02 extension (R92). -/
  | zpi (ll : Byte)
deriving DecidableEq, Repr

/-- The addressing mode of an operand. -/
def Operand.mode : Operand → Mode
  | .acc => .acc
  | .imm _ => .imm
  | .zp _ => .zp
  | .zpx _ => .zpx
  | .zpy _ => .zpy
  | .abs _ => .abs
  | .absx _ => .absx
  | .absy _ => .absy
  | .indx _ => .indx
  | .indy _ => .indy
  | .zpi _ => .zpi

/-- The instructions of the core. The rule of each stands beside it. -/
inductive Instr where
  -- spec/41_load_store.md
  | lda (o : Operand)   -- R110
  | ldx (o : Operand)   -- R111
  | ldy (o : Operand)   -- R112
  | sta (o : Operand)   -- R113
  | stx (o : Operand)   -- R114
  | sty (o : Operand)   -- R115
  | stz (o : Operand)   -- R116
  -- spec/42_logic_shift.md
  | ora (o : Operand)   -- R120
  | and (o : Operand)   -- R121
  | eor (o : Operand)   -- R122
  | asl (o : Operand)   -- R123
  | rol (o : Operand)   -- R124
  | lsr (o : Operand)   -- R125
  | ror (o : Operand)   -- R126
  -- spec/43_incdec_compare_bit.md
  | inc (o : Operand)   -- R130
  | dec (o : Operand)   -- R131
  | inx                 -- R132
  | iny                 -- R133
  | dex                 -- R134
  | dey                 -- R135
  | cmp (o : Operand)   -- R136
  | cpx (o : Operand)   -- R137
  | cpy (o : Operand)   -- R138
  | bit (o : Operand)   -- R139
  -- spec/44_branch_flags.md; `d` is the displacement byte (R93)
  | bpl (d : Byte)      -- R146
  | bmi (d : Byte)      -- R147
  | bvc (d : Byte)      -- R148
  | bvs (d : Byte)      -- R149
  | bcc (d : Byte)      -- R150
  | bcs (d : Byte)      -- R151
  | bne (d : Byte)      -- R152
  | beq (d : Byte)      -- R153
  | clc                 -- R154
  | sec                 -- R155
  | cli                 -- R156
  | sei                 -- R157
  | clv                 -- R158
  | cld                 -- R159
  | sed                 -- R160
  -- spec/45_adc_sbc.md
  | adc (o : Operand)   -- R170
  | sbc (o : Operand)   -- R173
  -- spec/46_control_stack.md
  | brk                 -- R184
  | rti                 -- R185
  | jsr (target : Word) -- R186
  | rts                 -- R187
  | jmpAbs (target : Word)  -- R188
  | jmpInd (ptr : Word)     -- R189
  -- spec/47_transfer_misc.md
  | txa                 -- R200
  | tax                 -- R201
  | tya                 -- R202
  | tay                 -- R203
  | txs                 -- R204
  | tsx                 -- R205
  | pha                 -- R206
  | pla                 -- R207
  | php                 -- R208
  | plp                 -- R209
  | nop                 -- R210
  | unk (opcode : Byte) -- R211: one of the 91 bytes of R65
deriving DecidableEq, Repr

/-- The addressing mode of an instruction: the column of R63's table it stands in. -/
def Instr.mode : Instr → Mode
  | .lda o | .ldx o | .ldy o | .sta o | .stx o | .sty o | .stz o => o.mode
  | .ora o | .and o | .eor o | .asl o | .rol o | .lsr o | .ror o => o.mode
  | .inc o | .dec o | .cmp o | .cpx o | .cpy o | .bit o | .adc o | .sbc o => o.mode
  | .bpl _ | .bmi _ | .bvc _ | .bvs _ | .bcc _ | .bcs _ | .bne _ | .beq _ => .rel
  | .jsr _ | .jmpAbs _ => .abs
  | .jmpInd _ => .ind
  | .unk _ => .unknown
  | .inx | .iny | .dex | .dey | .clc | .sec | .cli | .sei | .clv | .cld | .sed => .imp
  | .brk | .rti | .rts | .txa | .tax | .tya | .tay | .txs | .tsx => .imp
  | .pha | .pla | .php | .plp | .nop => .imp

end Sys2Proof
end

