-- ==== Sys2Proof/WellFormed.lean ====
section
/-! DEFINITION. Which instructions the encoding has: the pairing of mnemonics and addressing modes of
spec/30_encoding.md R63 and the list of unknown opcodes of R65. A term outside it has no encoding and the
decoder never makes one. -/

namespace Sys2Proof

/-- The modes of LDA, ORA, AND, EOR, ADC, SBC and CMP (R110, R120, R136, R170, R173). -/
def readModes : List Mode := [.imm, .zp, .zpx, .abs, .absx, .absy, .indx, .indy, .zpi]

/-- The modes of STA (R113): those of a read, less the immediate one. -/
def storeModes : List Mode := [.zp, .zpx, .abs, .absx, .absy, .indx, .indy, .zpi]

/-- The modes of ASL, ROL, LSR, ROR, INC and DEC (R123 to R126, R130, R131). -/
def modifyModes : List Mode := [.acc, .zp, .zpx, .abs, .absx]

/-- The 91 unknown opcodes, as R65 lists them. -/
def unknownOpcodes : List Byte :=
  [0x02#8, 0x03#8, 0x04#8, 0x07#8, 0x0B#8, 0x0C#8, 0x0F#8, 0x13#8, 0x14#8, 0x17#8, 0x1B#8, 0x1C#8, 0x1F#8,
   0x22#8, 0x23#8, 0x27#8, 0x2B#8, 0x2F#8, 0x33#8, 0x34#8, 0x37#8, 0x3B#8, 0x3C#8, 0x3F#8] ++
  [0x42#8, 0x43#8, 0x44#8, 0x47#8, 0x4B#8, 0x4F#8, 0x53#8, 0x54#8, 0x57#8, 0x5A#8, 0x5B#8, 0x5C#8, 0x5F#8,
   0x62#8, 0x63#8, 0x67#8, 0x6B#8, 0x6F#8, 0x73#8, 0x77#8, 0x7A#8, 0x7B#8, 0x7C#8, 0x7F#8] ++
  [0x80#8, 0x82#8, 0x83#8, 0x87#8, 0x89#8, 0x8B#8, 0x8F#8, 0x93#8, 0x97#8, 0x9B#8, 0x9F#8, 0xA3#8,
   0xA7#8, 0xAB#8, 0xAF#8, 0xB3#8, 0xB7#8, 0xBB#8, 0xBF#8] ++
  [0xC2#8, 0xC3#8, 0xC7#8, 0xCB#8, 0xCF#8, 0xD3#8, 0xD4#8, 0xD7#8, 0xDA#8, 0xDB#8, 0xDC#8, 0xDF#8, 0xE2#8,
   0xE3#8, 0xE7#8, 0xEB#8, 0xEF#8, 0xF3#8, 0xF4#8, 0xF7#8, 0xFA#8, 0xFB#8, 0xFC#8, 0xFF#8]

/-- The instruction is a row of R63's table, or an unknown opcode of R65. -/
def Instr.wellFormed : Instr → Bool
  | .lda o | .ora o | .and o | .eor o | .adc o | .sbc o | .cmp o => readModes.contains o.mode
  | .ldx o => [Mode.imm, .zp, .zpy, .abs, .absy].contains o.mode
  | .ldy o => [Mode.imm, .zp, .zpx, .abs, .absx].contains o.mode
  | .sta o => storeModes.contains o.mode
  | .stx o => [Mode.zp, .zpy, .abs].contains o.mode
  | .sty o => [Mode.zp, .zpx, .abs].contains o.mode
  | .stz o => [Mode.zp, .zpx, .abs, .absx].contains o.mode
  | .asl o | .rol o | .lsr o | .ror o | .inc o | .dec o => modifyModes.contains o.mode
  | .cpx o | .cpy o => [Mode.imm, .zp, .abs].contains o.mode
  | .bit o => [Mode.zp, .abs].contains o.mode
  | .unk opcode => unknownOpcodes.contains opcode
  | .bpl _ | .bmi _ | .bvc _ | .bvs _ | .bcc _ | .bcs _ | .bne _ | .beq _ => true
  | .jsr _ | .jmpAbs _ | .jmpInd _ => true
  | .inx | .iny | .dex | .dey | .clc | .sec | .cli | .sei | .clv | .cld | .sed => true
  | .brk | .rti | .rts | .txa | .tax | .tya | .tay | .txs | .tsx => true
  | .pha | .pla | .php | .plp | .nop => true

end Sys2Proof
end

