-- ==== Sys2Proof/Decode.lean ====
section
/-! DEFINITION. The decoder, total on any bytes, and the encoder (spec/30_encoding.md R60 to R67).
The decoder follows R63's grid, the encoder R63's table of mnemonics and modes. The opcode byte values are the
spec's decision D1 (general knowledge, spec/93_implementation_defined.md G1; notes/assumptions/4.md). -/

namespace Sys2Proof

open Sys2Proof.Machine

/-- How many operand bytes an instruction of the mode has (R61; `n` of R96). -/
def Mode.operandBytes : Mode → Nat
  | .imp | .acc | .unknown => 0
  | .imm | .zp | .zpx | .zpy | .indx | .indy | .zpi | .rel => 1
  | .abs | .absx | .absy | .ind => 2

/-- The length of an instruction in bytes: the opcode and its operand bytes (R60, R61). -/
def Instr.length (i : Instr) : Nat := 1 + i.mode.operandBytes

/-- An entry of the dispatch table, by the format of the instruction (R60): no operand byte, one, or two. The
entry of a format with operand bytes builds the instruction from them; a two-byte operand is little-endian (R62). -/
inductive OpcodeRow where
  | f0 (i : Instr)
  | f1 (build : Byte → Instr)
  | f2 (build : Word → Instr)

/-- The dispatch table (R60, R63, R66): total over the 256 opcode bytes, in the order of R63's grid. Every byte
that R63 does not define is an unknown opcode (R65). -/
def opcodeRow (op : Byte) : OpcodeRow :=
  match op.toNat with
  | 0x00 => .f0 .brk
  | 0x01 => .f1 fun ll => .ora (.indx ll)
  | 0x05 => .f1 fun ll => .ora (.zp ll)
  | 0x06 => .f1 fun ll => .asl (.zp ll)
  | 0x08 => .f0 .php
  | 0x09 => .f1 fun ll => .ora (.imm ll)
  | 0x0A => .f0 (.asl .acc)
  | 0x0D => .f2 fun hhll => .ora (.abs hhll)
  | 0x0E => .f2 fun hhll => .asl (.abs hhll)
  | 0x10 => .f1 fun ll => .bpl ll
  | 0x11 => .f1 fun ll => .ora (.indy ll)
  | 0x12 => .f1 fun ll => .ora (.zpi ll)
  | 0x15 => .f1 fun ll => .ora (.zpx ll)
  | 0x16 => .f1 fun ll => .asl (.zpx ll)
  | 0x18 => .f0 .clc
  | 0x19 => .f2 fun hhll => .ora (.absy hhll)
  | 0x1A => .f0 (.inc .acc)
  | 0x1D => .f2 fun hhll => .ora (.absx hhll)
  | 0x1E => .f2 fun hhll => .asl (.absx hhll)
  | 0x20 => .f2 fun hhll => .jsr hhll
  | 0x21 => .f1 fun ll => .and (.indx ll)
  | 0x24 => .f1 fun ll => .bit (.zp ll)
  | 0x25 => .f1 fun ll => .and (.zp ll)
  | 0x26 => .f1 fun ll => .rol (.zp ll)
  | 0x28 => .f0 .plp
  | 0x29 => .f1 fun ll => .and (.imm ll)
  | 0x2A => .f0 (.rol .acc)
  | 0x2C => .f2 fun hhll => .bit (.abs hhll)
  | 0x2D => .f2 fun hhll => .and (.abs hhll)
  | 0x2E => .f2 fun hhll => .rol (.abs hhll)
  | 0x30 => .f1 fun ll => .bmi ll
  | 0x31 => .f1 fun ll => .and (.indy ll)
  | 0x32 => .f1 fun ll => .and (.zpi ll)
  | 0x35 => .f1 fun ll => .and (.zpx ll)
  | 0x36 => .f1 fun ll => .rol (.zpx ll)
  | 0x38 => .f0 .sec
  | 0x39 => .f2 fun hhll => .and (.absy hhll)
  | 0x3A => .f0 (.dec .acc)
  | 0x3D => .f2 fun hhll => .and (.absx hhll)
  | 0x3E => .f2 fun hhll => .rol (.absx hhll)
  | 0x40 => .f0 .rti
  | 0x41 => .f1 fun ll => .eor (.indx ll)
  | 0x45 => .f1 fun ll => .eor (.zp ll)
  | 0x46 => .f1 fun ll => .lsr (.zp ll)
  | 0x48 => .f0 .pha
  | 0x49 => .f1 fun ll => .eor (.imm ll)
  | 0x4A => .f0 (.lsr .acc)
  | 0x4C => .f2 fun hhll => .jmpAbs hhll
  | 0x4D => .f2 fun hhll => .eor (.abs hhll)
  | 0x4E => .f2 fun hhll => .lsr (.abs hhll)
  | 0x50 => .f1 fun ll => .bvc ll
  | 0x51 => .f1 fun ll => .eor (.indy ll)
  | 0x52 => .f1 fun ll => .eor (.zpi ll)
  | 0x55 => .f1 fun ll => .eor (.zpx ll)
  | 0x56 => .f1 fun ll => .lsr (.zpx ll)
  | 0x58 => .f0 .cli
  | 0x59 => .f2 fun hhll => .eor (.absy hhll)
  | 0x5D => .f2 fun hhll => .eor (.absx hhll)
  | 0x5E => .f2 fun hhll => .lsr (.absx hhll)
  | 0x60 => .f0 .rts
  | 0x61 => .f1 fun ll => .adc (.indx ll)
  | 0x64 => .f1 fun ll => .stz (.zp ll)
  | 0x65 => .f1 fun ll => .adc (.zp ll)
  | 0x66 => .f1 fun ll => .ror (.zp ll)
  | 0x68 => .f0 .pla
  | 0x69 => .f1 fun ll => .adc (.imm ll)
  | 0x6A => .f0 (.ror .acc)
  | 0x6C => .f2 fun hhll => .jmpInd hhll
  | 0x6D => .f2 fun hhll => .adc (.abs hhll)
  | 0x6E => .f2 fun hhll => .ror (.abs hhll)
  | 0x70 => .f1 fun ll => .bvs ll
  | 0x71 => .f1 fun ll => .adc (.indy ll)
  | 0x72 => .f1 fun ll => .adc (.zpi ll)
  | 0x74 => .f1 fun ll => .stz (.zpx ll)
  | 0x75 => .f1 fun ll => .adc (.zpx ll)
  | 0x76 => .f1 fun ll => .ror (.zpx ll)
  | 0x78 => .f0 .sei
  | 0x79 => .f2 fun hhll => .adc (.absy hhll)
  | 0x7D => .f2 fun hhll => .adc (.absx hhll)
  | 0x7E => .f2 fun hhll => .ror (.absx hhll)
  | 0x81 => .f1 fun ll => .sta (.indx ll)
  | 0x84 => .f1 fun ll => .sty (.zp ll)
  | 0x85 => .f1 fun ll => .sta (.zp ll)
  | 0x86 => .f1 fun ll => .stx (.zp ll)
  | 0x88 => .f0 .dey
  | 0x8A => .f0 .txa
  | 0x8C => .f2 fun hhll => .sty (.abs hhll)
  | 0x8D => .f2 fun hhll => .sta (.abs hhll)
  | 0x8E => .f2 fun hhll => .stx (.abs hhll)
  | 0x90 => .f1 fun ll => .bcc ll
  | 0x91 => .f1 fun ll => .sta (.indy ll)
  | 0x92 => .f1 fun ll => .sta (.zpi ll)
  | 0x94 => .f1 fun ll => .sty (.zpx ll)
  | 0x95 => .f1 fun ll => .sta (.zpx ll)
  | 0x96 => .f1 fun ll => .stx (.zpy ll)
  | 0x98 => .f0 .tya
  | 0x99 => .f2 fun hhll => .sta (.absy hhll)
  | 0x9A => .f0 .txs
  | 0x9C => .f2 fun hhll => .stz (.abs hhll)
  | 0x9D => .f2 fun hhll => .sta (.absx hhll)
  | 0x9E => .f2 fun hhll => .stz (.absx hhll)
  | 0xA0 => .f1 fun ll => .ldy (.imm ll)
  | 0xA1 => .f1 fun ll => .lda (.indx ll)
  | 0xA2 => .f1 fun ll => .ldx (.imm ll)
  | 0xA4 => .f1 fun ll => .ldy (.zp ll)
  | 0xA5 => .f1 fun ll => .lda (.zp ll)
  | 0xA6 => .f1 fun ll => .ldx (.zp ll)
  | 0xA8 => .f0 .tay
  | 0xA9 => .f1 fun ll => .lda (.imm ll)
  | 0xAA => .f0 .tax
  | 0xAC => .f2 fun hhll => .ldy (.abs hhll)
  | 0xAD => .f2 fun hhll => .lda (.abs hhll)
  | 0xAE => .f2 fun hhll => .ldx (.abs hhll)
  | 0xB0 => .f1 fun ll => .bcs ll
  | 0xB1 => .f1 fun ll => .lda (.indy ll)
  | 0xB2 => .f1 fun ll => .lda (.zpi ll)
  | 0xB4 => .f1 fun ll => .ldy (.zpx ll)
  | 0xB5 => .f1 fun ll => .lda (.zpx ll)
  | 0xB6 => .f1 fun ll => .ldx (.zpy ll)
  | 0xB8 => .f0 .clv
  | 0xB9 => .f2 fun hhll => .lda (.absy hhll)
  | 0xBA => .f0 .tsx
  | 0xBC => .f2 fun hhll => .ldy (.absx hhll)
  | 0xBD => .f2 fun hhll => .lda (.absx hhll)
  | 0xBE => .f2 fun hhll => .ldx (.absy hhll)
  | 0xC0 => .f1 fun ll => .cpy (.imm ll)
  | 0xC1 => .f1 fun ll => .cmp (.indx ll)
  | 0xC4 => .f1 fun ll => .cpy (.zp ll)
  | 0xC5 => .f1 fun ll => .cmp (.zp ll)
  | 0xC6 => .f1 fun ll => .dec (.zp ll)
  | 0xC8 => .f0 .iny
  | 0xC9 => .f1 fun ll => .cmp (.imm ll)
  | 0xCA => .f0 .dex
  | 0xCC => .f2 fun hhll => .cpy (.abs hhll)
  | 0xCD => .f2 fun hhll => .cmp (.abs hhll)
  | 0xCE => .f2 fun hhll => .dec (.abs hhll)
  | 0xD0 => .f1 fun ll => .bne ll
  | 0xD1 => .f1 fun ll => .cmp (.indy ll)
  | 0xD2 => .f1 fun ll => .cmp (.zpi ll)
  | 0xD5 => .f1 fun ll => .cmp (.zpx ll)
  | 0xD6 => .f1 fun ll => .dec (.zpx ll)
  | 0xD8 => .f0 .cld
  | 0xD9 => .f2 fun hhll => .cmp (.absy hhll)
  | 0xDD => .f2 fun hhll => .cmp (.absx hhll)
  | 0xDE => .f2 fun hhll => .dec (.absx hhll)
  | 0xE0 => .f1 fun ll => .cpx (.imm ll)
  | 0xE1 => .f1 fun ll => .sbc (.indx ll)
  | 0xE4 => .f1 fun ll => .cpx (.zp ll)
  | 0xE5 => .f1 fun ll => .sbc (.zp ll)
  | 0xE6 => .f1 fun ll => .inc (.zp ll)
  | 0xE8 => .f0 .inx
  | 0xE9 => .f1 fun ll => .sbc (.imm ll)
  | 0xEA => .f0 .nop
  | 0xEC => .f2 fun hhll => .cpx (.abs hhll)
  | 0xED => .f2 fun hhll => .sbc (.abs hhll)
  | 0xEE => .f2 fun hhll => .inc (.abs hhll)
  | 0xF0 => .f1 fun ll => .beq ll
  | 0xF1 => .f1 fun ll => .sbc (.indy ll)
  | 0xF2 => .f1 fun ll => .sbc (.zpi ll)
  | 0xF5 => .f1 fun ll => .sbc (.zpx ll)
  | 0xF6 => .f1 fun ll => .inc (.zpx ll)
  | 0xF8 => .f0 .sed
  | 0xF9 => .f2 fun hhll => .sbc (.absy hhll)
  | 0xFD => .f2 fun hhll => .sbc (.absx hhll)
  | 0xFE => .f2 fun hhll => .inc (.absx hhll)
  | _ => .f0 (.unk op)

/-- The instruction of an opcode byte and the two bytes after it, of which a shorter format takes the first only
or neither (R60, R62). -/
def decodeBytes (op ll hh : Byte) : Instr :=
  match opcodeRow op with
  | .f0 i => i
  | .f1 build => build ll
  | .f2 build => build (leWord ll hh)

/-- Why a byte list holds no whole instruction. No opcode byte is rejected (R66). -/
inductive DecodeReject where
  /-- The list is empty. Safe: the step always has three bytes. -/
  | noOpcode
  /-- The list ends before the operand bytes of this opcode. Safe: the step always has three bytes. -/
  | missingOperand (opcode : Byte)
deriving DecidableEq, Repr

/-- What the decoder answers: an instruction and the bytes after it, or a rejection by name. -/
inductive Decoded where
  | instr (i : Instr) (rest : List Byte)
  | reject (r : DecodeReject)
deriving DecidableEq, Repr

/-- The decoder on a list of bytes: one opcode byte, then the operand bytes of its format (R60, R61). The length
is a function of the opcode byte alone (R67). -/
def decode : List Byte → Decoded
  | [] => .reject .noOpcode
  | op :: rest =>
    match opcodeRow op, rest with
    | .f0 i, _ => .instr i rest
    | .f1 build, ll :: rest' => .instr (build ll) rest'
    | .f2 build, ll :: hh :: rest' => .instr (build (leWord ll hh)) rest'
    | .f1 _, [] | .f2 _, [] | .f2 _, [_] => .reject (.missingOperand op)

/-- The operand bytes of an operand, the low byte first (R62). -/
def Operand.bytes : Operand → List Byte
  | .acc => []
  | .imm ll | .zp ll | .zpx ll | .zpy ll | .indx ll | .indy ll | .zpi ll => [ll]
  | .abs hhll | .absx hhll | .absy hhll => [loByte hhll, hiByte hhll]

/-- The operand bytes of an instruction, the low byte first (R62). -/
def Instr.operandBytes : Instr → List Byte
  | .lda o | .ldx o | .ldy o | .sta o | .stx o | .sty o | .stz o => o.bytes
  | .ora o | .and o | .eor o | .asl o | .rol o | .lsr o | .ror o => o.bytes
  | .inc o | .dec o | .cmp o | .cpx o | .cpy o | .bit o | .adc o | .sbc o => o.bytes
  | .bpl d | .bmi d | .bvc d | .bvs d | .bcc d | .bcs d | .bne d | .beq d => [d]
  | .jsr w | .jmpAbs w | .jmpInd w => [loByte w, hiByte w]
  | .unk _ => []
  | .inx | .iny | .dex | .dey | .clc | .sec | .cli | .sei | .clv | .cld | .sed => []
  | .brk | .rti | .rts | .txa | .tax | .tya | .tay | .txs | .tsx => []
  | .pha | .pla | .php | .plp | .nop => []

/-- A row of R63's table that has one opcode for each mode of `readModes`, in that order. -/
def readRow (imm zp zpx abs absx absy indx indy zpi : Byte) : Mode → Option Byte
  | .imm => some imm | .zp => some zp | .zpx => some zpx | .abs => some abs | .absx => some absx
  | .absy => some absy | .indx => some indx | .indy => some indy | .zpi => some zpi
  | .imp | .acc | .zpy | .rel | .ind | .unknown => none

/-- A row of R63's table that has one opcode for each mode of `modifyModes`, in that order. -/
def modifyRow (acc zp zpx abs absx : Byte) : Mode → Option Byte
  | .acc => some acc | .zp => some zp | .zpx => some zpx | .abs => some abs | .absx => some absx
  | .imp | .imm | .zpy | .absy | .indx | .indy | .zpi | .rel | .ind | .unknown => none

/-- The opcode byte of an instruction (R63's table, row by row; R65 for the unknown opcodes); none for a term
the table has no cell for. -/
def Instr.opcode : Instr → Option Byte
  | .lda o => readRow 0xA9#8 0xA5#8 0xB5#8 0xAD#8 0xBD#8 0xB9#8 0xA1#8 0xB1#8 0xB2#8 o.mode
  | .ldx (.imm _) => some 0xA2#8 | .ldx (.zp _) => some 0xA6#8 | .ldx (.zpy _) => some 0xB6#8
  | .ldx (.abs _) => some 0xAE#8 | .ldx (.absy _) => some 0xBE#8 | .ldx _ => none
  | .ldy (.imm _) => some 0xA0#8 | .ldy (.zp _) => some 0xA4#8 | .ldy (.zpx _) => some 0xB4#8
  | .ldy (.abs _) => some 0xAC#8 | .ldy (.absx _) => some 0xBC#8 | .ldy _ => none
  | .sta (.zp _) => some 0x85#8 | .sta (.zpx _) => some 0x95#8 | .sta (.abs _) => some 0x8D#8
  | .sta (.absx _) => some 0x9D#8 | .sta (.absy _) => some 0x99#8 | .sta (.indx _) => some 0x81#8
  | .sta (.indy _) => some 0x91#8 | .sta (.zpi _) => some 0x92#8 | .sta _ => none
  | .stx (.zp _) => some 0x86#8 | .stx (.zpy _) => some 0x96#8 | .stx (.abs _) => some 0x8E#8 | .stx _ => none
  | .sty (.zp _) => some 0x84#8 | .sty (.zpx _) => some 0x94#8 | .sty (.abs _) => some 0x8C#8 | .sty _ => none
  | .stz (.zp _) => some 0x64#8 | .stz (.zpx _) => some 0x74#8 | .stz (.abs _) => some 0x9C#8
  | .stz (.absx _) => some 0x9E#8 | .stz _ => none
  | .ora o => readRow 0x09#8 0x05#8 0x15#8 0x0D#8 0x1D#8 0x19#8 0x01#8 0x11#8 0x12#8 o.mode
  | .and o => readRow 0x29#8 0x25#8 0x35#8 0x2D#8 0x3D#8 0x39#8 0x21#8 0x31#8 0x32#8 o.mode
  | .eor o => readRow 0x49#8 0x45#8 0x55#8 0x4D#8 0x5D#8 0x59#8 0x41#8 0x51#8 0x52#8 o.mode
  | .asl o => modifyRow 0x0A#8 0x06#8 0x16#8 0x0E#8 0x1E#8 o.mode
  | .rol o => modifyRow 0x2A#8 0x26#8 0x36#8 0x2E#8 0x3E#8 o.mode
  | .lsr o => modifyRow 0x4A#8 0x46#8 0x56#8 0x4E#8 0x5E#8 o.mode
  | .ror o => modifyRow 0x6A#8 0x66#8 0x76#8 0x6E#8 0x7E#8 o.mode
  | .inc o => modifyRow 0x1A#8 0xE6#8 0xF6#8 0xEE#8 0xFE#8 o.mode
  | .dec o => modifyRow 0x3A#8 0xC6#8 0xD6#8 0xCE#8 0xDE#8 o.mode
  | .inx => some 0xE8#8 | .iny => some 0xC8#8 | .dex => some 0xCA#8 | .dey => some 0x88#8
  | .cmp o => readRow 0xC9#8 0xC5#8 0xD5#8 0xCD#8 0xDD#8 0xD9#8 0xC1#8 0xD1#8 0xD2#8 o.mode
  | .cpx (.imm _) => some 0xE0#8 | .cpx (.zp _) => some 0xE4#8 | .cpx (.abs _) => some 0xEC#8 | .cpx _ => none
  | .cpy (.imm _) => some 0xC0#8 | .cpy (.zp _) => some 0xC4#8 | .cpy (.abs _) => some 0xCC#8 | .cpy _ => none
  | .bit (.zp _) => some 0x24#8 | .bit (.abs _) => some 0x2C#8 | .bit _ => none
  | .bpl _ => some 0x10#8 | .bmi _ => some 0x30#8 | .bvc _ => some 0x50#8 | .bvs _ => some 0x70#8
  | .bcc _ => some 0x90#8 | .bcs _ => some 0xB0#8 | .bne _ => some 0xD0#8 | .beq _ => some 0xF0#8
  | .clc => some 0x18#8 | .sec => some 0x38#8 | .cli => some 0x58#8 | .sei => some 0x78#8
  | .clv => some 0xB8#8 | .cld => some 0xD8#8 | .sed => some 0xF8#8
  | .adc o => readRow 0x69#8 0x65#8 0x75#8 0x6D#8 0x7D#8 0x79#8 0x61#8 0x71#8 0x72#8 o.mode
  | .sbc o => readRow 0xE9#8 0xE5#8 0xF5#8 0xED#8 0xFD#8 0xF9#8 0xE1#8 0xF1#8 0xF2#8 o.mode
  | .brk => some 0x00#8 | .rti => some 0x40#8 | .jsr _ => some 0x20#8 | .rts => some 0x60#8
  | .jmpAbs _ => some 0x4C#8 | .jmpInd _ => some 0x6C#8
  | .txa => some 0x8A#8 | .tax => some 0xAA#8 | .tya => some 0x98#8 | .tay => some 0xA8#8
  | .txs => some 0x9A#8 | .tsx => some 0xBA#8
  | .pha => some 0x48#8 | .pla => some 0x68#8 | .php => some 0x08#8 | .plp => some 0x28#8
  | .nop => some 0xEA#8
  | .unk op => if unknownOpcodes.contains op then some op else none

/-- The bytes of a well-formed instruction, the opcode first (R60, R62); the empty list for a term with no
encoding. -/
def encode (i : Instr) : List Byte :=
  match i.opcode with
  | some op => op :: i.operandBytes
  | none => []

/-- Byte `k` of a word of `nbits` bits numbered as spec/opcode_table.json numbers them: bit 0 is the least
significant bit of the first byte, and every bit from `nbits` up is 0. -/
def tableByte (nbits w k : Nat) : Byte := BitVec.ofNat 8 (w % 2 ^ nbits / 256 ^ k)

/-- The instruction that the decoder reads from the bytes of a table word; none when the word is not even one
byte long. -/
def decodeTableWord (nbits w : Nat) : Option Instr :=
  match decide (nbits < 8), decode [tableByte nbits w 0, tableByte nbits w 1, tableByte nbits w 2] with
  | true, _ => none
  | false, .instr i _ => some i
  | false, .reject _ => none

end Sys2Proof
end

