-- ==== Sys2Proof/Machine/Flags.lean ====
section
/-! DEFINITION. The status register's bits and every flag computation of the spec (spec/10_state.md R25, R26;
spec/40_step_and_addressing.md R98; spec/42_logic_shift.md to spec/45_adc_sbc.md). -/

namespace Sys2Proof.Machine

/-- The eight flags of `P` (R25). -/
inductive Flag where
  | n | v | u | b | d | i | z | c
deriving DecidableEq, Repr

/-- The mask of a flag (R25's table). -/
def Flag.mask : Flag → Byte
  | .n => 0x80#8
  | .v => 0x40#8
  | .u => 0x20#8
  | .b => 0x10#8
  | .d => 0x08#8
  | .i => 0x04#8
  | .z => 0x02#8
  | .c => 0x01#8

/-- The number of a flag's bit in `P` (R25's table). -/
def Flag.bit : Flag → Nat
  | .n => 7
  | .v => 6
  | .u => 5
  | .b => 4
  | .d => 3
  | .i => 2
  | .z => 1
  | .c => 0

/-- Read a flag: `P.N`, `P.V`, … (R12, R25). -/
def getFlag (p : Byte) (f : Flag) : Bool := p.getLsbD f.bit

/-- Set a flag: `P | mask` (R155). -/
def setFlag (p : Byte) (f : Flag) : Byte := p ||| f.mask

/-- Clear a flag: `P & ~mask` within 8 bits (R154, R161). -/
def clearFlag (p : Byte) (f : Flag) : Byte := p &&& ~~~f.mask

/-- Write a flag to a stated value: `P.f <- v` (R12). -/
def putFlag (p : Byte) (f : Flag) (v : Bool) : Byte := if v then setFlag p f else clearFlag p f

/-- The test of `BCL(mask)` and `BST(mask)`: `P & mask = 0` (R145). -/
def maskClear (p : Byte) (f : Flag) : Bool := p &&& f.mask == 0x00#8

/-- `P | 0x30`: Break and Unused forced set, as BRK and PHP push it and RTI and PLP load it (R184, R185, R208,
R209). -/
def forceBreakUnused (p : Byte) : Byte := p ||| 0x30#8

/-- `P | 0x14`: what BRK leaves in the live `P` (R184). -/
def trapStatus (p : Byte) : Byte := p ||| 0x14#8

/-- `FlagsNZ(v)` (R98): clear Zero and Negative; if `v` is 0 set Zero, else copy bit 7 of `v` into Negative. -/
def flagsNZ (v : Byte) (p : Byte) : Byte :=
  let cleared := clearFlag (clearFlag p .z) .n
  if v = 0x00#8 then putFlag cleared .z true else putFlag cleared .n (v.getLsbD 7)

/-- The flags of CMP, CPX and CPY (R136 to R138): `P.C <- (r >= m)`, `P.Z <- (r = m)`, `P.N <- d[7]` with
`d = (r - m) & 0xFF`. -/
def flagsCompare (r m : Byte) (p : Byte) : Byte :=
  putFlag (putFlag (putFlag p .c (decide (m.toNat ≤ r.toNat))) .z (r == m)) .n ((r - m).getLsbD 7)

/-- The flags of BIT (R139): Z from `A & m`, N and V from bits 7 and 6 of `m`. -/
def flagsBit (a m : Byte) (p : Byte) : Byte :=
  putFlag (putFlag (putFlag p .z (a &&& m == 0x00#8)) .n (m.getLsbD 7)) .v (m.getLsbD 6)

/-! ### Shifts and rotates: the result and the carry out, from the operand and the carry in -/

/-- ASL (R123): `(v << 1) & 0xFF`, carry out `v[7]`. -/
def aslByte (v : Byte) (_carry : Bool) : Byte × Bool := (v <<< 1, v.getLsbD 7)

/-- ROL (R124): `((v << 1) | P.C) & 0xFF`, carry out `v[7]`. -/
def rolByte (v : Byte) (carry : Bool) : Byte × Bool := ((v <<< 1) ||| BitVec.ofNat 8 (bitNat carry), v.getLsbD 7)

/-- LSR (R125): `v >> 1`, carry out `v[0]`. -/
def lsrByte (v : Byte) (_carry : Bool) : Byte × Bool := (v >>> 1, v.getLsbD 0)

/-- ROR (R126): `(v >> 1) | (P.C << 7)`, carry out `v[0]`. -/
def rorByte (v : Byte) (carry : Bool) : Byte × Bool :=
  ((v >>> 1) ||| BitVec.ofNat 8 (bitNat carry * 128), v.getLsbD 0)

/-! ### ADC and SBC -/

/-- What ADC and SBC write: the accumulator and N, V, Z, C (R170, R173). -/
structure AluResult where
  acc : Byte
  n : Bool
  v : Bool
  z : Bool
  c : Bool
deriving DecidableEq, Repr

/-- `AdcBinary(m)` (R171), the sum exact and narrowed at the end. -/
def adcBinary (a m : Byte) (carry : Bool) : AluResult :=
  let r := a.toNat + m.toNat + bitNat carry
  let res := BitVec.ofNat 8 r
  { acc := res
    n := res.getLsbD 7
    v := (~~~(a ^^^ m) &&& (a ^^^ res) &&& 0x80#8) != 0x00#8
    z := res == 0x00#8
    c := decide (r > 0xFF) }

/-- `AdcDecimal(m)` (R172): Z, N, V from the uncorrected pair of nibbles, the accumulator from the corrected
one, C the decimal carry. Masking and carry are the spec's decision D13. -/
def adcDecimal (a m : Byte) (carry : Bool) : AluResult :=
  let lo := lowNibble a + lowNibble m + bitNat carry
  let adj0 := if lo > 9 then 6 else 0
  let half := if lo > 9 then 1 else 0
  let hi := highNibble a + highNibble m + half
  let adj1 := if hi > 9 then 6 else 0
  let alu := nibblePair hi lo
  { acc := nibblePair (hi + adj1) (lo + adj0)
    n := alu.getLsbD 7
    v := (~~~(a ^^^ m) &&& (a ^^^ alu) &&& 0x80#8) != 0x00#8
    z := alu == 0x00#8
    c := decide (hi > 9) }

/-- `SbcBinary(m)` (R174): `a + (~m & 0xFF) + P.C`; the overflow test takes `m` as read. -/
def sbcBinary (a m : Byte) (carry : Bool) : AluResult :=
  let r := a.toNat + (~~~m).toNat + bitNat carry
  let res := BitVec.ofNat 8 r
  { acc := res
    n := res.getLsbD 7
    v := ((a ^^^ m) &&& (a ^^^ res) &&& 0x80#8) != 0x00#8
    z := res == 0x00#8
    c := decide (r > 0xFF) }

/-- `SbcDecimal(m)` (R175, the spec's decision D14; notes/assumptions/7.md): flags and C from the binary
difference, `+10` on the low nibble and `+0xA0` on the high one where it borrowed. -/
def sbcDecimal (a m : Byte) (carry : Bool) : AluResult :=
  let nm := ~~~m
  let n0 := lowNibble a + lowNibble nm + bitNat carry
  let half := if n0 ≤ 0x0F then 0 else 1
  let adj0 := if n0 ≤ 0x0F then 10 else 0
  let n1 := highNibble a + highNibble nm + half
  let adj1 := if n1 ≤ 0x0F then 0xA0 else 0
  let r := a.toNat + nm.toNat + bitNat carry
  let alu := BitVec.ofNat 8 r
  { acc := nibblePair ((alu.toNat + adj1) / 16) (alu.toNat + adj0)
    n := alu.getLsbD 7
    v := ((a ^^^ m) &&& (a ^^^ alu) &&& 0x80#8) != 0x00#8
    z := alu == 0x00#8
    c := decide (r > 0xFF) }

/-- ADC's result: the path is chosen by `P.D` alone (R170). -/
def adcResult (a m p : Byte) : AluResult :=
  if getFlag p .d then adcDecimal a m (getFlag p .c) else adcBinary a m (getFlag p .c)

/-- SBC's result: the path is chosen by `P.D` alone (R173). -/
def sbcResult (a m p : Byte) : AluResult :=
  if getFlag p .d then sbcDecimal a m (getFlag p .c) else sbcBinary a m (getFlag p .c)

/-- Write N, V, Z and C as ADC or SBC computed them (R171, R172, R174, R175). -/
def flagsAlu (r : AluResult) (p : Byte) : Byte :=
  putFlag (putFlag (putFlag (putFlag p .v r.v) .c r.c) .n r.n) .z r.z

end Sys2Proof.Machine
end

