-- ==== Sys2Proof/Machine/State.lean ====
section
/-! DEFINITION. The state of the machine (spec/10_state.md R20 to R35), the reasons a step can stop, and the
state after reset (R34, R242). The fields are named as the source names them. -/

namespace Sys2Proof.Machine

/-- Why the machine stops with a fault. -/
inductive Fault where
  /-- Raised by `execUnk` only, and only under `UNKNOWN_POLICY = fault`: the model records a fault at an unknown
  opcode, with no state saved and no vector read (R211, R222, spec/93_implementation_defined.md U1). Safe: the
  run simply stops. -/
  | unknownOpcode (opcode : Byte)
deriving DecidableEq, Repr

/-- Why the model has no meaning for an instruction. -/
inductive Refusal where
  /-- Raised by an arm of `exec` whose instruction has no meaning yet. No arm does so. Safe. -/
  | notModelled (mnemonic : String)
deriving DecidableEq, Repr

/-- The memory: address and byte pairs, in the canonical form `Memory.wf` of Machine/Memory.lean (R32). -/
abbrev Memory := List Host.Cell

/-- The whole state of the machine (the head of spec/10_state.md). -/
structure State where
  /-- `A`, the accumulator (R20). -/
  a : Byte
  /-- `X`, an index register (R20). -/
  x : Byte
  /-- `Y`, an index register (R20). -/
  y : Byte
  /-- `S`, the stack index (R24). -/
  sp : Byte
  /-- `P`, the status register: N V U B D I Z C from bit 7 down (R25). -/
  p : Byte
  /-- `PC`, the program counter (R23). -/
  pc : Word
  /-- The 65,536 bytes of memory (R32). -/
  mem : Memory
  /-- `excycles`, the extra cycles charged so far, unbounded (R30, decision D7). -/
  excycles : Nat
  /-- `processorCycles`, which nothing ever writes (R31, R252). -/
  processorCycles : Nat
  /-- The parameters of this core, fixed for the run: the model's own field (notes/assumptions/1.md). -/
  config : Config
deriving DecidableEq, Repr

/-- The machine right after reset (R34, R240, R242): `A = X = Y = 0`, `S = 0xFF`, `P = 0x30`,
`PC = RESET_PC`, counters 0. No byte of memory is listed: `MEM_INIT` (R11) is what a loader writes
(R246, `hostLoad`; notes/assumptions/5.md and 6.md). -/
def State.reset : State where
  a := 0x00#8
  x := 0x00#8
  y := 0x00#8
  sp := 0xFF#8
  p := 0x30#8
  pc := Config.launch.resetPc
  mem := []
  excycles := 0
  processorCycles := 0
  config := Config.launch

end Sys2Proof.Machine
end

