-- ==== Sys2Proof/Machine/Memory.lean ====
section
/-! DEFINITION. The memory as data: one list of cells in canonical form, its read and its write
(spec/20_memory.md R40, R41, R44, R49; spec/10_state.md R32). -/

namespace Sys2Proof.Machine

/-- What a byte of memory that the list does not name reads as. DESIGN CHOICE (notes/assumptions/5.md): `0x00`;
the spec gives memory no contents (R11, decision D6). Every `MEM_INIT` is some canonical list, so a statement
about every state is one about every `MEM_INIT`. -/
def Memory.unlisted : Byte := 0x00#8

/-- The canonical form: addresses strictly rising, all below `0x10000` (R40), and no entry that reads as an
unlisted address does. Equal memories are then equal lists. -/
def Memory.wf : Memory → Bool
  | [] => true
  | (k, v) :: rest =>
    decide (k < 0x10000) && v != Memory.unlisted && rest.all (fun cell => decide (k < cell.1)) && Memory.wf rest

/-- The byte at an address (R41). A read changes nothing and never fails (R45). -/
def Memory.read : Memory → Nat → Byte
  | [], _ => Memory.unlisted
  | (k, v) :: rest, addr => if k = addr then v else Memory.read rest addr

/-- Store a byte at an address and change no other (R44), keeping the canonical form. -/
def Memory.write : Memory → Nat → Byte → Memory
  | [], addr, v => if v = Memory.unlisted then [] else [(addr, v)]
  | (k, w) :: rest, addr, v =>
    if addr < k then
      if v = Memory.unlisted then (k, w) :: rest else (addr, v) :: (k, w) :: rest
    else if addr = k then
      if v = Memory.unlisted then rest else (addr, v) :: rest
    else (k, w) :: Memory.write rest addr v

end Sys2Proof.Machine
end

