-- ==== Sys2Proof/Machine/Ops.lean ====
section
/-! DEFINITION. The named operations over registers and memory: the accessors of spec/20_memory.md R41 to R44,
the stack primitives of spec/46_control_stack.md R180 to R183, taking the one trap and returning from it
(R184, R185, R226, R227), the branch (R145), and the fetch (R80). -/

namespace Sys2Proof.Machine

/-! ### Register updates -/

def State.setA (s : State) (v : Byte) : State := { s with a := v }
def State.setX (s : State) (v : Byte) : State := { s with x := v }
def State.setY (s : State) (v : Byte) : State := { s with y := v }
def State.setSp (s : State) (v : Byte) : State := { s with sp := v }
def State.setP (s : State) (v : Byte) : State := { s with p := v }
def State.setPc (s : State) (v : Word) : State := { s with pc := v }
def State.setMem (s : State) (m : Memory) : State := { s with mem := m }
/-- Increase `excycles`, the only way it is ever written (R251). -/
def State.addExcycles (s : State) (n : Nat) : State := { s with excycles := s.excycles + n }

/-! ### Memory (R41 to R44) -/

/-- `MemRead(addr, 1)` (R41). -/
def readByte (s : State) (addr : Word) : Byte := Memory.read s.mem addr.toNat

/-- `MemRead(addr, 2)` (R42): little-endian; `addr + 1` wraps at 64 KB and not within the page. -/
def readWord (s : State) (addr : Word) : Word := leWord (readByte s addr) (readByte s (addr + 1#16))

/-- `MemReadWrap(addr)` (R43): the high byte's address wraps within the page of the low byte. -/
def readWordWrap (s : State) (addr : Word) : Word :=
  leWord (readByte s addr) (readByte s ((addr &&& 0xFF00#16) ||| ((addr + 1#16) &&& 0x00FF#16)))

/-- `MemWrite(addr, 1, v)` (R44). -/
def writeByte (s : State) (addr : Word) (v : Byte) : State := s.setMem (Memory.write s.mem addr.toNat v)

/-! ### The stack (R180 to R183) -/

/-- The stack address `0x0100 + S` (R24). -/
def stackAddr (sp : Byte) : Word := 0x0100#16 + zext sp

/-- `Push(v)` (R180). -/
def push (v : Byte) (s : State) : State := (writeByte s (stackAddr s.sp) v).setSp (s.sp - 1#8)

/-- `Pop()` (R181): the byte and the state after it. -/
def pop (s : State) : Byte × State :=
  let t := s.setSp (s.sp + 1#8)
  (readByte t (stackAddr t.sp), t)

/-- `PushWord(w)` (R182): the high byte first. -/
def pushWord (w : Word) (s : State) : State := push (loByte w) (push (hiByte w) s)

/-- `PopWord()` (R183): the low byte first. -/
def popWord (s : State) : Word × State :=
  let l := pop s
  let h := pop l.2
  (leWord l.1 h.1, h.2)

/-! ### The trap and the return from it (R184, R185, R226, R227) -/

/-- The address of the IRQ/BRK vector (R49, R224). -/
def irqVector : Word := 0xFFFE#16

/-- Trap entry (R184, R226): push `PC` as a word, push `P` with Break and Unused forced set, set I and B in the
live `P`, load `PC` from the vector. The vector is read after the pushes, in the order of the rule. -/
def takeTrap (vector : Word) (s : State) : State :=
  let t := push (forceBreakUnused s.p) (pushWord s.pc s)
  let u := t.setP (trapStatus t.p)
  u.setPc (readWord u vector)

/-- Trap return (R185, R227): pop `P`, forcing Break and Unused, then pop a word into `PC`. -/
def returnFromTrap (s : State) : State :=
  let f := pop s
  let w := popWord (f.2.setP (forceBreakUnused f.1))
  w.2.setPc w.1

/-! ### PC and branches -/

/-- Advance `PC` past `n` operand bytes (R96). -/
def advance (n : Nat) (s : State) : State := s.setPc (s.pc + BitVec.ofNat 16 n)

/-- The extra cycles of a taken branch (R93, R251): one always, one more if the target's page differs from the
page of `PC` after the displacement byte; not gated by `ADDCYCLES` (decision D10). -/
def branchCycles (next target : Word) : Nat := if pageOf next = pageOf target then 1 else 2

/-- `Branch(taken)` (R145): skip the displacement byte, or go to the target of R93 and charge its cycles. -/
def branch (taken : Bool) (d : Byte) (s : State) : State :=
  let next := s.pc + 1#16
  if taken then (s.addExcycles (branchCycles next (branchTarget next d))).setPc (branchTarget next d)
  else s.setPc next

/-- `BCL(mask)`, branch on clear (R145). -/
def branchOnClear (f : Flag) (d : Byte) (s : State) : State := branch (maskClear s.p f) d s

/-- `BST(mask)`, branch on set (R145). -/
def branchOnSet (f : Flag) (d : Byte) (s : State) : State := branch (!maskClear s.p f) d s

/-! ### Registers with `FlagsNZ` -/

/-- `A <- v ; FlagsNZ(A)`. -/
def loadA (v : Byte) (s : State) : State := (s.setA v).setP (flagsNZ v s.p)

/-- `X <- v ; FlagsNZ(X)`. -/
def loadX (v : Byte) (s : State) : State := (s.setX v).setP (flagsNZ v s.p)

/-- `Y <- v ; FlagsNZ(Y)`. -/
def loadY (v : Byte) (s : State) : State := (s.setY v).setP (flagsNZ v s.p)

/-- Write the accumulator and N, V, Z, C as ADC or SBC computed them (R170, R173). -/
def applyAlu (r : AluResult) (s : State) : State := (s.setA r.acc).setP (flagsAlu r s.p)

/-! ### The fetch (R80) -/

/-- The instruction at `PC` (R80 lines 1 and 2): its bytes stand at consecutive addresses modulo `0x10000` (R60).
A shorter instruction uses the first of the three bytes only; reading has no effect (R41). -/
def fetchInstr (s : State) : Instr :=
  decodeBytes (readByte s s.pc) (readByte s (s.pc + 1#16)) (readByte s (s.pc + 2#16))

/-- Advance `PC` past the opcode byte (R80 line 1): inside the instruction `PC` is the opcode's address plus
one (R23). -/
def passOpcode (s : State) : State := s.setPc (s.pc + 1#16)

/-- The bytes of a table word stored at `PC`, `PC + 1` and `PC + 2`. -/
def placeWord (s : State) (nbits w : Nat) : State :=
  writeByte (writeByte (writeByte s s.pc (tableByte nbits w 0)) (s.pc + 1#16) (tableByte nbits w 1))
    (s.pc + 2#16) (tableByte nbits w 2)

end Sys2Proof.Machine
end

