-- ==== Sys2Proof/Machine/Operands.lean ====
section
/-! DEFINITION. The addressing-mode resolver and the reading and writing of an operand
(spec/40_step_and_addressing.md R81 to R97), and the three shapes of an instruction with an operand (R99).
The operand bytes are those the fetch read (R54: no rule writes before it has read them, JSR apart). -/

namespace Sys2Proof.Machine

/-- The operand descriptor (R81). `datum` is the immediate operand: R83's `Mem(PC)`, whose byte the fetch has
already read (notes/assumptions/8.md). -/
inductive Descriptor where
  | acc
  | datum (v : Byte)
  | mem (ea : Word)
deriving DecidableEq, Repr

/-- The effective address before the page-crossing index is added, for the modes R95 names. -/
def baseAddr (o : Operand) (s : State) : Option Word :=
  match o with
  | .absx hhll => some hhll
  | .absy hhll => some hhll
  | .indy ll => some (readWordWrap s (zext ll))
  | .acc | .imm _ | .zp _ | .zpx _ | .zpy _ | .abs _ | .indx _ | .zpi _ => none

/-- The operand descriptor of an operand (R82 to R92). -/
def resolve (o : Operand) (s : State) : Descriptor :=
  match o with
  | .acc => .acc
  | .imm ll => .datum ll
  | .zp ll => .mem (zext ll)
  | .zpx ll => .mem (zext (s.x + ll))
  | .zpy ll => .mem (zext (s.y + ll))
  | .abs hhll => .mem hhll
  | .absx hhll => .mem (hhll + zext s.x)
  | .absy hhll => .mem (hhll + zext s.y)
  | .indx ll => .mem (readWordWrap s (zext (ll + s.x)))
  | .indy ll => .mem (readWordWrap s (zext ll) + zext s.y)
  | .zpi ll => .mem (readWord s (zext ll))

/-- `PageCrossCharge(base, ea)` (R95): one cycle if `ADDCYCLES` and the pages differ. -/
def pageCrossCharge (addCycles : Bool) (base ea : Word) : Nat :=
  if addCycles ∧ pageOf base ≠ pageOf ea then 1 else 0

/-- The extra cycles that resolving the operand charges: modes `absx`, `absy` and `indy` only (R95). -/
def resolveCycles (o : Operand) (s : State) : Nat :=
  match baseAddr o s, resolve o s with
  | some base, .mem ea => pageCrossCharge s.config.addCycles base ea
  | _, _ => 0

/-- Resolving the operand changes the counter `excycles` and nothing else (R95, R99 (1)). -/
def chargeMode (o : Operand) (s : State) : State := s.addExcycles (resolveCycles o s)

/-- `ReadOp(o)` (R97). -/
def readOp (d : Descriptor) (s : State) : Byte :=
  match d with
  | .acc => s.a
  | .datum v => v
  | .mem ea => readByte s ea

/-- `WriteOp(o, v)` (R97). No instruction that writes its operand has an immediate form. -/
def writeOp (d : Descriptor) (v : Byte) (s : State) : State :=
  match d with
  | .acc => s.setA v
  | .datum _ => s
  | .mem ea => writeByte s ea v

/-- The byte an instruction reads as its operand: the mode resolved, then `ReadOp` (R97). -/
def operandByte (o : Operand) (s : State) : Byte := readOp (resolve o s) s

/-- The shape of an instruction that reads its operand and writes registers (R99): resolve, do `f` with the
operand, advance `PC`. -/
def readForm (o : Operand) (f : Byte → State → State) (s : State) : State :=
  advance o.mode.operandBytes (f (operandByte o s) (chargeMode o s))

/-- The shape of a store (R99): resolve, write `v`, advance `PC`. The store does not read the cell (R113). -/
def storeForm (o : Operand) (v : Byte) (s : State) : State :=
  advance o.mode.operandBytes (writeOp (resolve o s) v (chargeMode o s))

/-- The shape of a read-modify-write instruction (R48, R99): one read, one write of the same operand with the
byte `r`, `P` becomes `p`, advance `PC`. -/
def modifyForm (o : Operand) (r p : Byte) (s : State) : State :=
  advance o.mode.operandBytes ((writeOp (resolve o s) r (chargeMode o s)).setP p)

/-- A shift or rotate (R123 to R126): `P.C` is the bit shifted out, then `FlagsNZ` of the result. -/
def shiftForm (f : Byte → Bool → Byte × Bool) (o : Operand) (s : State) : State :=
  let rc := f (operandByte o s) (getFlag s.p .c)
  modifyForm o rc.1 (flagsNZ rc.1 (putFlag s.p .c rc.2)) s

/-- An increment or decrement of an operand (R130, R131): `FlagsNZ` of the result, C and V untouched. -/
def stepForm (f : Byte → Byte) (o : Operand) (s : State) : State :=
  let r := f (operandByte o s)
  modifyForm o r (flagsNZ r s.p) s

end Sys2Proof.Machine
end

