-- ==== Sys2Proof/Machine/Arith.lean ====
section
/-! DEFINITION. Add and subtract with carry, binary and decimal (spec/45_adc_sbc.md R170 to R175). -/

namespace Sys2Proof.Machine

/-- ADC (R170): binary (R171) or decimal (R172) by `P.D`. -/
def execAdc (o : Operand) (s : State) : Host.Outcome State Fault Refusal :=
  .next (readForm o (fun m => applyAlu (adcResult s.a m s.p)) s)

/-- SBC (R173): binary (R174) or decimal (R175) by `P.D`. -/
def execSbc (o : Operand) (s : State) : Host.Outcome State Fault Refusal :=
  .next (readForm o (fun m => applyAlu (sbcResult s.a m s.p)) s)

end Sys2Proof.Machine
end

