-- ==== Sys2Proof/Machine/BranchFlag.lean ====
section
/-! DEFINITION. Conditional branches and flag instructions (spec/44_branch_flags.md R145 to R161; R64 for the masks). -/

namespace Sys2Proof.Machine

/-- BPL (R146): `BCL(0x80)`, taken when N is clear. -/
def execBpl (d : Byte) (s : State) : Host.Outcome State Fault Refusal :=
  .next (branchOnClear .n d s)

/-- BMI (R147): `BST(0x80)`, taken when N is set. -/
def execBmi (d : Byte) (s : State) : Host.Outcome State Fault Refusal :=
  .next (branchOnSet .n d s)

/-- BVC (R148): `BCL(0x40)`, taken when V is clear. -/
def execBvc (d : Byte) (s : State) : Host.Outcome State Fault Refusal :=
  .next (branchOnClear .v d s)

/-- BVS (R149): `BST(0x40)`, taken when V is set. -/
def execBvs (d : Byte) (s : State) : Host.Outcome State Fault Refusal :=
  .next (branchOnSet .v d s)

/-- BCC (R150): `BCL(0x01)`, taken when C is clear. -/
def execBcc (d : Byte) (s : State) : Host.Outcome State Fault Refusal :=
  .next (branchOnClear .c d s)

/-- BCS (R151): `BST(0x01)`, taken when C is set. -/
def execBcs (d : Byte) (s : State) : Host.Outcome State Fault Refusal :=
  .next (branchOnSet .c d s)

/-- BNE (R152): `BCL(0x02)`, taken when Z is clear. -/
def execBne (d : Byte) (s : State) : Host.Outcome State Fault Refusal :=
  .next (branchOnClear .z d s)

/-- BEQ (R153): `BST(0x02)`, taken when Z is set. -/
def execBeq (d : Byte) (s : State) : Host.Outcome State Fault Refusal :=
  .next (branchOnSet .z d s)

/-- CLC (R154): `P <- P & ~0x01`. -/
def execClc (s : State) : Host.Outcome State Fault Refusal :=
  .next (s.setP (clearFlag s.p .c))

/-- SEC (R155): `P <- P | 0x01`. -/
def execSec (s : State) : Host.Outcome State Fault Refusal :=
  .next (s.setP (setFlag s.p .c))

/-- CLI (R156): `P <- P & ~0x04`. -/
def execCli (s : State) : Host.Outcome State Fault Refusal :=
  .next (s.setP (clearFlag s.p .i))

/-- SEI (R157): `P <- P | 0x04`. -/
def execSei (s : State) : Host.Outcome State Fault Refusal :=
  .next (s.setP (setFlag s.p .i))

/-- CLV (R158): `P <- P & ~0x40`. -/
def execClv (s : State) : Host.Outcome State Fault Refusal :=
  .next (s.setP (clearFlag s.p .v))

/-- CLD (R159): `P <- P & ~0x08`. -/
def execCld (s : State) : Host.Outcome State Fault Refusal :=
  .next (s.setP (clearFlag s.p .d))

/-- SED (R160): `P <- P | 0x08`. -/
def execSed (s : State) : Host.Outcome State Fault Refusal :=
  .next (s.setP (setFlag s.p .d))

end Sys2Proof.Machine
end

