-- ==== Sys2Proof/Machine/Control.lean ====
section
/-! DEFINITION. Control transfer (spec/46_control_stack.md R184 to R189). Here `PC` is the opcode's address plus one. -/

namespace Sys2Proof.Machine

/-- BRK (R184): the trap, through the vector at `0xFFFE`. The pushed address is the opcode's plus one (C5). -/
def execBrk (s : State) : Host.Outcome State Fault Refusal :=
  .next (takeTrap irqVector s)

/-- RTI (R185): `P <- Pop() | 0x30 ; PC <- PopWord()`. -/
def execRti (s : State) : Host.Outcome State Fault Refusal :=
  .next (returnFromTrap s)

/-- JSR (R186): push `PC + 1`, then read the target from memory at `PC`. The target is read after the push
(decision D15), so the operand the instruction holds is not used: code in the stack page may have overwritten
it. In a step the two agree whenever the push leaves the operand bytes alone. -/
def execJsr (_target : Word) (s : State) : Host.Outcome State Fault Refusal :=
  let t := pushWord (s.pc + 1#16) s
  .next (t.setPc (readWord t s.pc))

/-- RTS (R187): `PC <- (PopWord() + 1) & 0xFFFF`. -/
def execRts (s : State) : Host.Outcome State Fault Refusal :=
  let w := popWord s
  .next (w.2.setPc (w.1 + 1#16))

/-- JMP absolute (R188): `PC <- MemRead(PC, 2)`, the operand. -/
def execJmpAbs (target : Word) (s : State) : Host.Outcome State Fault Refusal :=
  .next (s.setPc target)

/-- JMP indirect (R189): `PC <- MemReadWrap(ptr)`, with the page-wrap bug (R43, R94). -/
def execJmpInd (ptr : Word) (s : State) : Host.Outcome State Fault Refusal :=
  .next (s.setPc (readWordWrap s ptr))

end Sys2Proof.Machine
end

