-- ==== Sys2Proof/Machine/IncCompare.lean ====
section
/-! DEFINITION. Increment, decrement, compare, bit test (spec/43_incdec_compare_bit.md R130 to R139). -/

namespace Sys2Proof.Machine

/-- INC (R130), memory or accumulator: `r = (v + 1) & 0xFF ; FlagsNZ(r)`. -/
def execInc (o : Operand) (s : State) : Host.Outcome State Fault Refusal :=
  .next (stepForm (· + 1#8) o s)

/-- DEC (R131), memory or accumulator: `r = (v - 1) & 0xFF ; FlagsNZ(r)`. -/
def execDec (o : Operand) (s : State) : Host.Outcome State Fault Refusal :=
  .next (stepForm (· - 1#8) o s)

/-- INX (R132): `X <- (X + 1) & 0xFF ; FlagsNZ(X)`. -/
def execInx (s : State) : Host.Outcome State Fault Refusal :=
  .next (loadX (s.x + 1#8) s)

/-- INY (R133): `Y <- (Y + 1) & 0xFF ; FlagsNZ(Y)`. -/
def execIny (s : State) : Host.Outcome State Fault Refusal :=
  .next (loadY (s.y + 1#8) s)

/-- DEX (R134): `X <- (X - 1) & 0xFF ; FlagsNZ(X)`. -/
def execDex (s : State) : Host.Outcome State Fault Refusal :=
  .next (loadX (s.x - 1#8) s)

/-- DEY (R135): `Y <- (Y - 1) & 0xFF ; FlagsNZ(Y)`. -/
def execDey (s : State) : Host.Outcome State Fault Refusal :=
  .next (loadY (s.y - 1#8) s)

/-- CMP (R136): the flags of `A` against the operand; nothing else is written. -/
def execCmp (o : Operand) (s : State) : Host.Outcome State Fault Refusal :=
  .next (readForm o (fun m t => t.setP (flagsCompare s.a m s.p)) s)

/-- CPX (R137): as CMP, with `X`. -/
def execCpx (o : Operand) (s : State) : Host.Outcome State Fault Refusal :=
  .next (readForm o (fun m t => t.setP (flagsCompare s.x m s.p)) s)

/-- CPY (R138): as CMP, with `Y`. -/
def execCpy (o : Operand) (s : State) : Host.Outcome State Fault Refusal :=
  .next (readForm o (fun m t => t.setP (flagsCompare s.y m s.p)) s)

/-- BIT (R139): Z from `A & m`, N and V from `m`; `A` is not changed. -/
def execBit (o : Operand) (s : State) : Host.Outcome State Fault Refusal :=
  .next (readForm o (fun m t => t.setP (flagsBit s.a m s.p)) s)

end Sys2Proof.Machine
end

