-- ==== Sys2Proof/Machine/LoadStore.lean ====
section
/-! DEFINITION. Loads and stores (spec/41_load_store.md R110 to R116). -/

namespace Sys2Proof.Machine

/-- LDA (R110): `A <- MemRead(ea, 1) ; FlagsNZ(A)`. -/
def execLda (o : Operand) (s : State) : Host.Outcome State Fault Refusal :=
  .next (readForm o loadA s)

/-- LDX (R111): `X <- MemRead(ea, 1) ; FlagsNZ(X)`. -/
def execLdx (o : Operand) (s : State) : Host.Outcome State Fault Refusal :=
  .next (readForm o loadX s)

/-- LDY (R112): `Y <- MemRead(ea, 1) ; FlagsNZ(Y)`. -/
def execLdy (o : Operand) (s : State) : Host.Outcome State Fault Refusal :=
  .next (readForm o loadY s)

/-- STA (R113): `MemWrite(ea, 1, A)`. No flag. -/
def execSta (o : Operand) (s : State) : Host.Outcome State Fault Refusal :=
  .next (storeForm o s.a s)

/-- STX (R114): `MemWrite(ea, 1, X)`. No flag. -/
def execStx (o : Operand) (s : State) : Host.Outcome State Fault Refusal :=
  .next (storeForm o s.x s)

/-- STY (R115): `MemWrite(ea, 1, Y)`. No flag. -/
def execSty (o : Operand) (s : State) : Host.Outcome State Fault Refusal :=
  .next (storeForm o s.y s)

/-- STZ (R116): `MemWrite(ea, 1, 0x00)`. No flag. -/
def execStz (o : Operand) (s : State) : Host.Outcome State Fault Refusal :=
  .next (storeForm o 0x00#8 s)

end Sys2Proof.Machine
end

