-- ==== Sys2Proof/Machine/LogicShift.lean ====
section
/-! DEFINITION. Logic, shifts and rotates (spec/42_logic_shift.md R120 to R126). -/

namespace Sys2Proof.Machine

/-- ORA (R120): `A <- A | MemRead(ea, 1) ; FlagsNZ(A)`. -/
def execOra (o : Operand) (s : State) : Host.Outcome State Fault Refusal :=
  .next (readForm o (fun m => loadA (s.a ||| m)) s)

/-- AND (R121): `A <- A & MemRead(ea, 1) ; FlagsNZ(A)`. -/
def execAnd (o : Operand) (s : State) : Host.Outcome State Fault Refusal :=
  .next (readForm o (fun m => loadA (s.a &&& m)) s)

/-- EOR (R122): `A <- A ^ MemRead(ea, 1) ; FlagsNZ(A)`. -/
def execEor (o : Operand) (s : State) : Host.Outcome State Fault Refusal :=
  .next (readForm o (fun m => loadA (s.a ^^^ m)) s)

/-- ASL (R123), of the accumulator or of a byte of memory. -/
def execAsl (o : Operand) (s : State) : Host.Outcome State Fault Refusal :=
  .next (shiftForm aslByte o s)

/-- ROL (R124), through the carry of before the instruction. -/
def execRol (o : Operand) (s : State) : Host.Outcome State Fault Refusal :=
  .next (shiftForm rolByte o s)

/-- LSR (R125): N always cleared (decision D11). -/
def execLsr (o : Operand) (s : State) : Host.Outcome State Fault Refusal :=
  .next (shiftForm lsrByte o s)

/-- ROR (R126), the mirror image of ROL (decision D2, general knowledge). -/
def execRor (o : Operand) (s : State) : Host.Outcome State Fault Refusal :=
  .next (shiftForm rorByte o s)

end Sys2Proof.Machine
end

