-- ==== Sys2Proof/Machine/Transfer.lean ====
section
/-! DEFINITION. Register transfers, stack instructions, NOP, unknown opcodes (spec/47_transfer_misc.md R200 to R211). -/

namespace Sys2Proof.Machine

/-- TXA (R200): `A <- X ; FlagsNZ(A)` (decision D16). -/
def execTxa (s : State) : Host.Outcome State Fault Refusal :=
  .next (loadA s.x s)

/-- TAX (R201): `X <- A ; FlagsNZ(X)`. -/
def execTax (s : State) : Host.Outcome State Fault Refusal :=
  .next (loadX s.a s)

/-- TYA (R202): `A <- Y ; FlagsNZ(A)` (decision D16). -/
def execTya (s : State) : Host.Outcome State Fault Refusal :=
  .next (loadA s.y s)

/-- TAY (R203): `Y <- A ; FlagsNZ(Y)`. -/
def execTay (s : State) : Host.Outcome State Fault Refusal :=
  .next (loadY s.a s)

/-- TXS (R204): `S <- X`, no flag. -/
def execTxs (s : State) : Host.Outcome State Fault Refusal :=
  .next (s.setSp s.x)

/-- TSX (R205): `X <- S ; FlagsNZ(X)`. -/
def execTsx (s : State) : Host.Outcome State Fault Refusal :=
  .next (loadX s.sp s)

/-- PHA (R206): `Push(A)`, no flag. -/
def execPha (s : State) : Host.Outcome State Fault Refusal :=
  .next (push s.a s)

/-- PLA (R207): `A <- Pop() ; FlagsNZ(A)`. -/
def execPla (s : State) : Host.Outcome State Fault Refusal :=
  let r := pop s
  .next (loadA r.1 r.2)

/-- PHP (R208): `Push(P | 0x30)` (decision D2). -/
def execPhp (s : State) : Host.Outcome State Fault Refusal :=
  .next (push (forceBreakUnused s.p) s)

/-- PLP (R209): `P <- Pop() | 0x30` (decision D2). -/
def execPlp (s : State) : Host.Outcome State Fault Refusal :=
  let r := pop s
  .next (r.2.setP (forceBreakUnused r.1))

/-- NOP (R210): nothing. -/
def execNop (s : State) : Host.Outcome State Fault Refusal :=
  .next s

/-- An unknown opcode (R211): under `skip`, one more byte is passed, unread; under `fault` the model records a
fault and stops (R222). -/
def execUnk (opcode : Byte) (s : State) : Host.Outcome State Fault Refusal :=
  match s.config.unknownPolicy with
  | .skip => .next (advance 1 s)
  | .fault => .fault (.unknownOpcode opcode)

end Sys2Proof.Machine
end

