-- ==== Sys2Proof/Machine/Step.lean ====
section
/-! DEFINITION. One step (spec/40_step_and_addressing.md R80): the only transition of the core. -/

namespace Sys2Proof.Machine

/-- One step executes one instruction (R80): read the opcode at `PC` and decode it, advance `PC` by one, execute.
The re-masking of `PC` at the end changes nothing, `PC` being 16 bits wide (R23). -/
def step (s : State) : Host.Outcome State Fault Refusal := exec (fetchInstr s) (passOpcode s)

/-- The state with a table word stored where `step` fetches its next instruction. -/
def State.withFetchWord (s : State) (nbits w : Nat) : State := placeWord s nbits w

end Sys2Proof.Machine
end

