-- ==== Sys2Proof/Machine/HostOps.lean ====
section
/-! DEFINITION. The operations of the host between steps (spec/70_reset_and_hazards.md R240 to R249): reset, load,
dump, query, and the run loop with the parameter `HALT` (spec/00_scope.md R9). -/

namespace Sys2Proof.Machine

/-- `reset()` (R240, R241): `A`, `X`, `Y`, `S`, `P` and `PC` get their reset values; memory and the counters are
left alone. -/
def hostReset (s : State) : State :=
  { s with a := 0x00#8, x := 0x00#8, y := 0x00#8, sp := 0xFF#8, p := 0x30#8, pc := s.config.resetPc }

/-- Load (R246): write bytes at addresses, the first of the list first. -/
def hostLoad : List (Word × Byte) → State → State
  | [], s => s
  | (addr, v) :: rest, s => hostLoad rest (writeByte s addr v)

/-- Dump (R247): the byte at every address from `0x0000` to `0xFFFF`, in order. -/
def hostDump (s : State) : List Byte := (List.range 0x10000).map (Memory.read s.mem)

/-- What the query surface shows (R248); the counters are not in it. -/
structure QueryResult where
  pc : Word
  a : Byte
  x : Byte
  y : Byte
  p : Byte
  sp : Byte
deriving DecidableEq, Repr

/-- Query (R248). -/
def hostQuery (s : State) : QueryResult :=
  { pc := s.pc, a := s.a, x := s.x, y := s.y, p := s.p, sp := s.sp }

/-- The usual `HALT` (R9): the byte at `PC` is the caller's sentinel. -/
def haltOnSentinel (sentinel : Byte) (s : State) : Bool := readByte s s.pc == sentinel

/-- How a run of the host's loop ends (R244). -/
inductive RunEnd where
  /-- The first state of which `HALT` is true; its instruction is not executed. -/
  | halted (s : State)
  /-- The caller's bound on the number of steps is used up. -/
  | bounded (s : State)
  /-- A step stopped with a fault. -/
  | faulted (f : Fault)
  /-- A step was refused. -/
  | refused (r : Refusal)
deriving DecidableEq, Repr

/-- Step while `HALT` is false, at most `bound` times: `HALT` is evaluated before each step (R244). -/
def hostRun (halt : State → Bool) : Nat → State → RunEnd
  | bound, s =>
    if halt s then .halted s
    else match bound with
      | 0 => .bounded s
      | n + 1 =>
        match step s with
        | .next t => hostRun halt n t
        | .fault f => .faulted f
        | .refused r => .refused r

end Sys2Proof.Machine
end

