-- ==== Sys2Proof/Safety.lean ====
section
/-! DEFINITION. The terms statements are made in: the invariant, the launch states and what is reachable from
them, and what an instruction leaves unchanged (its frame). -/

namespace Sys2Proof.Machine

/-! ### Invariant and reachability -/

/-- The invariant every step keeps: memory is canonical (the model's own form, notes/assumptions/5.md) and Break
and Unused are set (R27). -/
def State.Inv (s : State) : Prop := Memory.wf s.mem = true ∧ s.p &&& 0x30#8 = 0x30#8

/-- The first state of a run (R35, R242): reset has been applied, memory is any `MEM_INIT`, the counters are 0. -/
def Launch (s : State) : Prop :=
  hostReset s = s ∧ Memory.wf s.mem = true ∧ s.excycles = 0 ∧ s.processorCycles = 0

/-- The states that steps and resets lead to from a launch state (R244, R249). -/
inductive Reachable : State → Prop where
  | launch {s : State} (h : Launch s) : Reachable s
  | step {s t : State} (hs : Reachable s) (h : step s = .next t) : Reachable t
  | reset {s : State} (hs : Reachable s) : Reachable (hostReset s)

/-! ### Frames -/

/-- The 8-bit registers that are not the status register (R20, R24). -/
inductive Reg where
  | a | x | y | sp
deriving DecidableEq, Repr

/-- The value of a register. -/
def getReg (s : State) : Reg → Byte
  | .a => s.a
  | .x => s.x
  | .y => s.y
  | .sp => s.sp

/-- From `s` to `t` nothing changes but the named registers, flags and memory cells, `PC` and `excycles`, which a
statement speaks of apart. -/
def OnlyTouches (regs : List Reg) (flags : List Flag) (cells : List Word) (s t : State) : Prop :=
  (∀ r, r ∉ regs → getReg t r = getReg s r) ∧
  (∀ f, f ∉ flags → getFlag t.p f = getFlag s.p f) ∧
  (∀ addr, addr ∉ cells → readByte t addr = readByte s addr) ∧
  t.processorCycles = s.processorCycles ∧ t.config = s.config

/-- N and Z say what `v` is (R98): Z is set exactly when `v` is 0, N is bit 7 of `v`. -/
def ShowsNZ (v : Byte) (t : State) : Prop :=
  (getFlag t.p .z = true ↔ v = 0x00#8) ∧ getFlag t.p .n = v.getLsbD 7

/-- `PC` passes the operand bytes of the mode (R96) and `excycles` takes the mode's charge (R95, R99). -/
def PassesOperand (o : Operand) (s t : State) : Prop :=
  t.pc = s.pc + BitVec.ofNat 16 o.mode.operandBytes ∧ t.excycles = s.excycles + resolveCycles o s

/-- `PC` and `excycles` stay: an instruction with no operand bytes, whose opcode the step has passed (R82, R96). -/
def PassesNothing (s t : State) : Prop := t.pc = s.pc ∧ t.excycles = s.excycles

/-- The instruction completes on every operand; it writes `value` of the state and the operand byte to register
`r` with N and Z from it, and nothing else. -/
def LoadsResult (i : Operand → Instr) (r : Reg) (value : State → Byte → Byte) : Prop :=
  ∀ (o : Operand) (s : State), ∃ t, exec (i o) s = .next t ∧
    getReg t r = value s (operandByte o s) ∧ ShowsNZ (value s (operandByte o s)) t ∧
    PassesOperand o s t ∧ OnlyTouches [r] [.n, .z] [] s t

/-- The instruction stores `value` of the state at its effective address and changes nothing else. -/
def StoresValue (i : Operand → Instr) (value : State → Byte) : Prop :=
  ∀ (o : Operand) (s : State) (ea : Word), resolve o s = .mem ea → ∃ t, exec (i o) s = .next t ∧
    (Memory.wf s.mem = true → readByte t ea = value s) ∧ PassesOperand o s t ∧ OnlyTouches [] [] [ea] s t

/-- The instruction rewrites its operand, the accumulator or the byte at its effective address: the old byte, the
new byte, the old `P` and the new `P` are in the relation `rel`, N and Z are those of the new byte, and of the
flags only the named ones may change. -/
def RewritesOperand (i : Operand → Instr) (flags : List Flag) (rel : Byte → Byte → Byte → Byte → Prop) : Prop :=
  (∀ s : State, ∃ t, exec (i .acc) s = .next t ∧ rel s.a t.a s.p t.p ∧ ShowsNZ t.a t ∧
    PassesNothing s t ∧ OnlyTouches [.a] flags [] s t) ∧
  (∀ (o : Operand) (s : State) (ea : Word), resolve o s = .mem ea → ∃ t r, exec (i o) s = .next t ∧
    rel (readByte s ea) r s.p t.p ∧ ShowsNZ r t ∧ (Memory.wf s.mem = true → readByte t ea = r) ∧
    PassesOperand o s t ∧ OnlyTouches [] flags [ea] s t)

/-- The instruction, which has no operand, writes `value` of the state to register `r` with N and Z from it. -/
def SetsRegister (i : Instr) (r : Reg) (value : State → Byte) : Prop :=
  ∀ s : State, ∃ t, exec i s = .next t ∧ getReg t r = value s ∧ ShowsNZ (value s) t ∧
    PassesNothing s t ∧ OnlyTouches [r] [.n, .z] [] s t

/-- The instruction compares `value` of the state with its operand byte `m`: C is `value ≥ m` unsigned, Z is
equality, N is bit 7 of the wrapped difference; no register and no cell is written. -/
def Compares (i : Operand → Instr) (value : State → Byte) : Prop :=
  ∀ (o : Operand) (s : State), ∃ t, exec (i o) s = .next t ∧
    (getFlag t.p .c = true ↔ (operandByte o s).toNat ≤ (value s).toNat) ∧
    (getFlag t.p .z = true ↔ value s = operandByte o s) ∧
    (getFlag t.p .n = true ↔ 128 ≤ ((value s).toNat + 256 - (operandByte o s).toNat) % 256) ∧
    PassesOperand o s t ∧ OnlyTouches [] [.c, .z, .n] [] s t

/-- The branch is taken exactly when flag `f` has the value `when`: then `PC` goes to the address after the
displacement byte plus the signed displacement, and one cycle is charged, two if the pages differ; otherwise
`PC` passes the displacement byte. -/
def BranchesWhen (i : Byte → Instr) (f : Flag) (when : Bool) : Prop :=
  ∀ (d : Byte) (s : State), ∃ t, exec (i d) s = .next t ∧
    (getFlag s.p f = when → t.pc = s.pc + 1#16 + d.signExtend 16 ∧
      t.excycles = s.excycles + if pageOf (s.pc + 1#16) = pageOf t.pc then 1 else 2) ∧
    (getFlag s.p f ≠ when → t.pc = s.pc + 1#16 ∧ t.excycles = s.excycles) ∧
    OnlyTouches [] [] [] s t

/-- The instruction writes `value` to flag `f` and changes nothing else. -/
def WritesFlag (i : Instr) (f : Flag) (value : Bool) : Prop :=
  ∀ s : State, ∃ t, exec i s = .next t ∧ getFlag t.p f = value ∧ PassesNothing s t ∧ OnlyTouches [] [f] [] s t

/-- The address `k` below the stack address, the index wrapping in page one (R24, R180). -/
def stackBelow (s : State) (k : Nat) : Word := BitVec.ofNat 16 (0x0100 + (s.sp.toNat + 256 - k) % 256)

/-- The address `k` above the stack address, the index wrapping in page one (R24, R181). -/
def stackAbove (s : State) (k : Nat) : Word := BitVec.ofNat 16 (0x0100 + (s.sp.toNat + k) % 256)

/-- A byte whose two nibbles are decimal digits (R172). -/
def ValidBcd (b : Byte) : Prop := highNibble b ≤ 9 ∧ lowNibble b ≤ 9

/-- The number two decimal digits stand for. -/
def decimalValue (b : Byte) : Nat := 10 * highNibble b + lowNibble b

/-! ### Who writes what (R22, R24, R26, R48) -/

/-- The operand is the accumulator. -/
def onAccumulator : Operand → Bool
  | .acc => true
  | .imm _ | .zp _ | .zpx _ | .zpy _ | .abs _ | .absx _ | .absy _ | .indx _ | .indy _ | .zpi _ => false

/-- The registers an instruction may write: R22's and R24's lists, instruction by instruction. -/
def writtenRegs : Instr → List Reg
  | .lda _ | .ora _ | .and _ | .eor _ | .adc _ | .sbc _ | .txa | .tya => [.a]
  | .asl o | .rol o | .lsr o | .ror o | .inc o | .dec o => if onAccumulator o then [.a] else []
  | .ldx _ | .tax | .tsx | .inx | .dex => [.x]
  | .ldy _ | .tay | .iny | .dey => [.y]
  | .pla => [.a, .sp]
  | .txs | .pha | .php | .plp | .jsr _ | .rts | .brk | .rti => [.sp]
  | .sta _ | .stx _ | .sty _ | .stz _ | .cmp _ | .cpx _ | .cpy _ | .bit _ => []
  | .bpl _ | .bmi _ | .bvc _ | .bvs _ | .bcc _ | .bcs _ | .bne _ | .beq _ => []
  | .clc | .sec | .cli | .sei | .clv | .cld | .sed => []
  | .jmpAbs _ | .jmpInd _ | .nop | .unk _ => []

/-- The flags an instruction may write: R26's lists, instruction by instruction. -/
def writtenFlags : Instr → List Flag
  | .lda _ | .ldx _ | .ldy _ | .ora _ | .and _ | .eor _ | .inc _ | .dec _ => [.n, .z]
  | .inx | .iny | .dex | .dey | .tax | .tay | .tsx | .txa | .tya | .pla => [.n, .z]
  | .asl _ | .rol _ | .lsr _ | .ror _ | .cmp _ | .cpx _ | .cpy _ => [.n, .z, .c]
  | .adc _ | .sbc _ => [.n, .v, .z, .c]
  | .bit _ => [.n, .v, .z]
  | .clc | .sec => [.c]
  | .cli | .sei => [.i]
  | .clv => [.v]
  | .cld | .sed => [.d]
  | .brk => [.i, .b]
  | .plp | .rti => [.n, .v, .u, .b, .d, .i, .z, .c]
  | .sta _ | .stx _ | .sty _ | .stz _ => []
  | .bpl _ | .bmi _ | .bvc _ | .bvs _ | .bcc _ | .bcs _ | .bne _ | .beq _ => []
  | .jsr _ | .rts | .jmpAbs _ | .jmpInd _ | .txs | .pha | .php | .nop | .unk _ => []

/-- Whether an instruction may write memory: the stores, the memory forms of the read-modify-write instructions,
and the pushes (R48, R180). -/
def mayWriteMemory : Instr → Bool
  | .sta _ | .stx _ | .sty _ | .stz _ => true
  | .asl o | .rol o | .lsr o | .ror o | .inc o | .dec o => !onAccumulator o
  | .pha | .php | .jsr _ | .brk => true
  | .lda _ | .ldx _ | .ldy _ | .ora _ | .and _ | .eor _ | .adc _ | .sbc _ => false
  | .cmp _ | .cpx _ | .cpy _ | .bit _ | .inx | .iny | .dex | .dey => false
  | .bpl _ | .bmi _ | .bvc _ | .bvs _ | .bcc _ | .bcs _ | .bne _ | .beq _ => false
  | .clc | .sec | .cli | .sei | .clv | .cld | .sed | .rti | .rts | .jmpAbs _ | .jmpInd _ => false
  | .txa | .tax | .tya | .tay | .txs | .tsx | .pla | .plp | .nop | .unk _ => false

end Sys2Proof.Machine
end

