-- ==== Sys2Proof/Certificates/Slice0/Obligations.lean ====
section
/-! DEFINITION. The statements about the model. In a statement about `exec`, `s.pc` is the opcode's address plus
one, as it is inside a step (R23, R80). -/

open Sys2Proof Sys2Proof.Machine

/-! ### Decoding, encoding and the step -/

/-- R80: a step runs the instruction that the bytes at `PC` decode to, with `PC` past the opcode byte. -/
def Obligations.StepRunsTheDecodedInstruction : Prop :=
  ∀ (s : State) (i : Instr) (rest : List Byte),
    decode [readByte s s.pc, readByte s (s.pc + 1#16), readByte s (s.pc + 2#16)] = .instr i rest →
    i.wellFormed = true → step s = exec i (s.setPc (s.pc + 1#16))

/-- R60, R80: an instruction whose encoding stands at `PC`, at consecutive addresses modulo `0x10000`, is the one
the step runs; the bytes may straddle `0xFFFF`. -/
def Obligations.EncodedInstructionAtPcIsExecuted : Prop :=
  ∀ (s : State) (i : Instr), i.wellFormed = true →
    (∀ (k : Nat) (v : Byte), (encode i)[k]? = some v → readByte s (s.pc + BitVec.ofNat 16 k) = v) →
    step s = exec i (s.setPc (s.pc + 1#16))

/-- Words written out from R63's table and R68's examples decode to the instructions they stand for. The opcode
values are the spec's decision D1 (notes/assumptions/4.md). -/
def Obligations.WordsOfTheOpcodeMapDecode : Prop :=
  decode [0xA9#8, 0x80#8] = .instr (.lda (.imm 0x80#8)) [] ∧
  decode [0x96#8, 0xF0#8] = .instr (.stx (.zpy 0xF0#8)) [] ∧
  decode [0x0A#8, 0x11#8] = .instr (.asl .acc) [0x11#8] ∧
  decode [0xFE#8, 0xFF#8, 0x12#8] = .instr (.inc (.absx 0x12FF#16)) [] ∧
  decode [0xD0#8, 0xF9#8] = .instr (.bne 0xF9#8) [] ∧
  decode [0xF8#8] = .instr .sed [] ∧
  decode [0x71#8, 0x20#8] = .instr (.adc (.indy 0x20#8)) [] ∧
  decode [0x6C#8, 0x34#8, 0x12#8] = .instr (.jmpInd 0x1234#16) [] ∧
  decode [0x9A#8] = .instr .txs [] ∧
  decode [0xDB#8, 0xE8#8] = .instr (.unk 0xDB#8) [0xE8#8]

/-- Decoding the bytes of a well-formed instruction gives it back, with every operand, and leaves what follows. -/
def Obligations.DecodeOfEncodeIsTheInstruction : Prop :=
  ∀ (i : Instr) (rest : List Byte), i.wellFormed = true → decode (encode i ++ rest) = .instr i rest

/-- What the decoder answers is well-formed, and its encoding is exactly the bytes the decoder consumed. -/
def Obligations.EncodeOfDecodeIsTheBytes : Prop :=
  ∀ (bytes : List Byte) (i : Instr) (rest : List Byte), decode bytes = .instr i rest →
    i.wellFormed = true ∧ bytes = encode i ++ rest

/-- R65, R66: every opcode byte decodes, to a row of the table or to the unknown opcode, and the bytes that decode
to the unknown opcode are 91, those of R65's list (which bytes: decision D3 of the spec; notes/assumptions/18.md). -/
def Obligations.EveryOpcodeDecodesAndNinetyOneAreUnknown : Prop :=
  (∀ op ll hh : Byte, ∃ i rest, decode [op, ll, hh] = .instr i rest ∧ i.opcode = some op ∧
    (unknownOpcodes.contains op = true ↔ i = .unk op)) ∧
  unknownOpcodes.length = 91 ∧ unknownOpcodes.Nodup

/-! ### Invariants and rules of the whole machine -/

/-- Every step keeps the invariant: memory canonical (notes/assumptions/5.md), Break and Unused set (R27). -/
def Obligations.EveryStepKeepsTheInvariant : Prop :=
  ∀ s t : State, s.Inv → step s = .next t → t.Inv

/-- The reset state meets the invariant. -/
def Obligations.ResetStateMeetsTheInvariant : Prop := State.reset.Inv

/-- R27: in every state that steps and resets lead to from a launch state, whatever its memory and parameters,
Break and Unused are set. That a run begins after a reset and that the host writes nothing later are decisions D8
and D18 of the spec (notes/assumptions/17.md). -/
def Obligations.ReachableStatusHasBreakAndUnusedSet : Prop :=
  ∀ s : State, Reachable s → s.p &&& 0x30#8 = 0x30#8

/-- R220, R222: a step completes, from every state, except at an unknown opcode under the policy `fault`, where the
model records the fault (the 91 bytes and the policy: decisions D3 and D5 of the spec; notes/assumptions/18.md). -/
def Obligations.EveryStepCompletesUnlessUnknownOpcodeFaults : Prop :=
  ∀ s : State, (∃ t, step s = .next t) ∨
    (s.config.unknownPolicy = .fault ∧ unknownOpcodes.contains (readByte s s.pc) = true ∧
      step s = .fault (.unknownOpcode (readByte s s.pc)))

/-- R8: two states that differ in `ADDCYCLES` and in `excycles` only have the same step, up to these two. -/
def Obligations.AddCyclesInfluencesNothingButExcycles : Prop :=
  ∀ (s : State) (n : Nat) (b : Bool),
    (∀ t, step s = .next t → ∃ m, step { s with excycles := n, config := { s.config with addCycles := b } } =
      .next { t with excycles := m, config := { t.config with addCycles := b } }) ∧
    (∀ f, step s = .fault f →
      step { s with excycles := n, config := { s.config with addCycles := b } } = .fault f)

/-- The parameters and `processorCycles` never change, and `reset` leaves both counters as they are (decision
D7 of the spec). -/
def Obligations.ParametersAndProcessorCyclesNeverChange : Prop :=
  (∀ s t : State, step s = .next t → t.config = s.config ∧ t.processorCycles = s.processorCycles) ∧
  (∀ s : State, (hostReset s).config = s.config ∧ (hostReset s).processorCycles = s.processorCycles ∧
    (hostReset s).excycles = s.excycles)

/-- `excycles` never falls, and a step adds at most two (R30, R251). That it has no bound and that no rule clears it
is decision D7 of the spec, that the charges of a branch are not gated decision D10 (notes/assumptions/15.md). -/
def Obligations.ExcyclesNeverFallAndRiseByAtMostTwo : Prop :=
  ∀ s t : State, step s = .next t → s.excycles ≤ t.excycles ∧ t.excycles ≤ s.excycles + 2

/-- R22, R24, R26, R48: a register, a flag or memory changes only by an instruction that the lists of these rules
name as writing it. -/
def Obligations.OnlyTheListedInstructionsWriteEachPieceOfState : Prop :=
  ∀ (i : Instr) (s t : State), i.wellFormed = true → exec i s = .next t →
    (∀ r, r ∉ writtenRegs i → getReg t r = getReg s r) ∧
    (∀ f, f ∉ writtenFlags i → getFlag t.p f = getFlag s.p f) ∧
    (mayWriteMemory i = false → t.mem = s.mem)

/-- Nothing tests `P.I` (R223, decision D17 of the spec): flipping it before an instruction that does not push `P`
changes nothing after the instruction but, at most, `P.I`. -/
def Obligations.InterruptDisableIsNeverTested : Prop :=
  ∀ (i : Instr) (s t : State), i ≠ .brk → i ≠ .php → exec i s = .next t →
    ∃ q, exec i (s.setP (s.p ^^^ 0x04#8)) = .next (t.setP q) ∧ ∀ f, f ≠ .i → getFlag q f = getFlag t.p f

/-- R54: a byte stored at the address of the next instruction is the opcode that the next fetch decodes. -/
def Obligations.StoredByteIsTheNextOpcodeFetched : Prop :=
  ∀ (o : Operand) (s : State), Memory.wf s.mem = true →
    resolve o s = .mem (s.pc + BitVec.ofNat 16 o.mode.operandBytes) →
    ∃ t, exec (.sta o) s = .next t ∧
      fetchInstr t = decodeBytes s.a (readByte s (t.pc + 1#16)) (readByte s (t.pc + 2#16))

/-! ### Memory -/

/-- R44: a write stores the byte in its cell and changes nothing else. That it keeps memory canonical is a clause
about the model's own form of memory (a design choice: notes/assumptions/5.md). -/
def Obligations.MemWriteStoresOneByte : Prop :=
  ∀ (s : State) (addr : Word) (v : Byte), Memory.wf s.mem = true →
    readByte (writeByte s addr v) addr = v ∧ Memory.wf (writeByte s addr v).mem = true ∧
    OnlyTouches [] [] [addr] s (writeByte s addr v) ∧
    (writeByte s addr v).pc = s.pc ∧ (writeByte s addr v).excycles = s.excycles

/-- R42: a word read is little-endian, its second address not wrapped within the page but wrapped at 64 KB. -/
def Obligations.WordReadIsLittleEndian : Prop :=
  ∀ (s : State) (addr : Word),
    (readWord s addr).toNat = (readByte s addr).toNat + 256 * (readByte s (addr + 1#16)).toNat

/-- R43: the page-wrapped word read takes its high byte from the next address within the same page; when the low
byte's address does not end the page, the two word reads agree. -/
def Obligations.WrappedWordReadStaysInThePage : Prop :=
  ∀ (s : State) (addr : Word),
    (readWordWrap s addr).toNat = (readByte s addr).toNat +
      256 * (readByte s (BitVec.ofNat 16 (addr.toNat / 256 * 256 + (addr.toNat + 1) % 256))).toNat ∧
    (addr.toNat % 256 ≠ 255 → readWordWrap s addr = readWord s addr)

/-! ### Addressing modes -/

/-- R84, R85, R86: the zero-page modes have one operand byte, stay in page zero and charge no cycle. -/
def Obligations.ZeroPageModesStayInPageZero : Prop :=
  ∀ (ll : Byte) (s : State), ∃ ea₀ eax eay : Word,
    resolve (.zp ll) s = .mem ea₀ ∧ ea₀.toNat = ll.toNat ∧ resolveCycles (.zp ll) s = 0 ∧
    resolve (.zpx ll) s = .mem eax ∧ eax.toNat = (s.x.toNat + ll.toNat) % 256 ∧ resolveCycles (.zpx ll) s = 0 ∧
    resolve (.zpy ll) s = .mem eay ∧ eay.toNat = (s.y.toNat + ll.toNat) % 256 ∧ resolveCycles (.zpy ll) s = 0 ∧
    (Operand.zp ll).bytes = [ll] ∧ (Operand.zpx ll).bytes = [ll] ∧ (Operand.zpy ll).bytes = [ll]

/-- R87, R88, R89: the absolute modes have two operand bytes, the low one first, and wrap at 64 KB; an indexed one
charges a cycle exactly when `ADDCYCLES` holds and the addition to the low byte carries. -/
def Obligations.AbsoluteModesWrapAndChargePageCrossings : Prop :=
  ∀ (hhll : Word) (s : State), ∃ eax eay : Word,
    resolve (.abs hhll) s = .mem hhll ∧ resolveCycles (.abs hhll) s = 0 ∧
    resolve (.absx hhll) s = .mem eax ∧ eax.toNat = (hhll.toNat + s.x.toNat) % 65536 ∧
    resolveCycles (.absx hhll) s =
      (if s.config.addCycles = true ∧ 255 < hhll.toNat % 256 + s.x.toNat then 1 else 0) ∧
    resolve (.absy hhll) s = .mem eay ∧ eay.toNat = (hhll.toNat + s.y.toNat) % 65536 ∧
    resolveCycles (.absy hhll) s =
      (if s.config.addCycles = true ∧ 255 < hhll.toNat % 256 + s.y.toNat then 1 else 0) ∧
    (Operand.abs hhll).bytes = [loByte hhll, hiByte hhll] ∧ (Operand.absx hhll).bytes = [loByte hhll, hiByte hhll] ∧
    (Operand.absy hhll).bytes = [loByte hhll, hiByte hhll]

/-- R90, R91, R92: the pointer of `(zp,X)` and of `(zp),Y` wraps within page zero, the pointer of `(zp)` does not;
`(zp),Y` charges a page crossing as absolute,Y does; each has one operand byte. -/
def Obligations.IndirectModesReadTheirPointers : Prop :=
  ∀ (ll : Byte) (s : State), ∃ eax base eay eaz : Word,
    resolve (.indx ll) s = .mem eax ∧
    eax.toNat = (readByte s (BitVec.ofNat 16 ((ll.toNat + s.x.toNat) % 256))).toNat +
      256 * (readByte s (BitVec.ofNat 16 ((ll.toNat + s.x.toNat + 1) % 256))).toNat ∧
    resolveCycles (.indx ll) s = 0 ∧
    base.toNat = (readByte s (BitVec.ofNat 16 ll.toNat)).toNat +
      256 * (readByte s (BitVec.ofNat 16 ((ll.toNat + 1) % 256))).toNat ∧
    resolve (.indy ll) s = .mem eay ∧ eay.toNat = (base.toNat + s.y.toNat) % 65536 ∧
    resolveCycles (.indy ll) s =
      (if s.config.addCycles = true ∧ 255 < base.toNat % 256 + s.y.toNat then 1 else 0) ∧
    resolve (.zpi ll) s = .mem eaz ∧
    eaz.toNat = (readByte s (BitVec.ofNat 16 ll.toNat)).toNat +
      256 * (readByte s (BitVec.ofNat 16 (ll.toNat + 1))).toNat ∧
    resolveCycles (.zpi ll) s = 0 ∧
    (Operand.indx ll).bytes = [ll] ∧ (Operand.indy ll).bytes = [ll] ∧ (Operand.zpi ll).bytes = [ll]

/-- R83: the datum of an immediate instruction is the byte after its opcode. -/
def Obligations.ImmediateDatumIsTheByteAfterTheOpcode : Prop :=
  ∀ s : State, readByte s s.pc = 0xA9#8 → ∃ t, step s = .next t ∧
    t.a = readByte s (s.pc + 1#16) ∧ t.pc = s.pc + 2#16

/-- R98: `FlagsNZ` sets Zero exactly for 0, copies bit 7 into Negative, and writes no other flag. -/
def Obligations.FlagsNZWritesZeroAndNegativeOnly : Prop :=
  ∀ v p : Byte, (getFlag (flagsNZ v p) .z = true ↔ v = 0x00#8) ∧
    (getFlag (flagsNZ v p) .n = true ↔ 128 ≤ v.toNat) ∧
    ∀ f, f ≠ .n → f ≠ .z → getFlag (flagsNZ v p) f = getFlag p f

/-! ### Loads, stores, logic, shifts -/

/-- R110, R111, R112: LDA, LDX and LDY complete on every operand, load the operand byte with N and Z from it, and
change nothing else. -/
def Obligations.LoadsCopyTheOperandByte : Prop :=
  LoadsResult .lda .a (fun _ m => m) ∧ LoadsResult .ldx .x (fun _ m => m) ∧ LoadsResult .ldy .y (fun _ m => m)

/-- R113 to R116: STA, STX, STY and STZ complete, store their byte at the effective address, and change nothing
else, no flag included. -/
def Obligations.StoresWriteOneByteAndNothingElse : Prop :=
  StoresValue .sta State.a ∧ StoresValue .stx State.x ∧ StoresValue .sty State.y ∧ StoresValue .stz (fun _ => 0x00#8)

/-- R120, R121, R122: ORA, AND and EOR complete on every operand, combine it with `A`, set N and Z, and change
nothing else. -/
def Obligations.LogicCombinesTheAccumulator : Prop :=
  LoadsResult .ora .a (fun s m => s.a ||| m) ∧ LoadsResult .and .a (fun s m => s.a &&& m) ∧
  LoadsResult .eor .a (fun s m => s.a ^^^ m)

/-- R123, R124: ASL and ROL, of the accumulator and of memory: the byte doubled modulo 256, ROL with the old carry
as bit 0; the carry becomes the old bit 7. -/
def Obligations.ShiftsLeftMoveBitSevenToCarry : Prop :=
  RewritesOperand .asl [.c, .n, .z] (fun v r _ q => r.toNat = 2 * v.toNat % 256 ∧ getFlag q .c = v.getLsbD 7) ∧
  RewritesOperand .rol [.c, .n, .z] (fun v r p q =>
    r.toNat = (2 * v.toNat + bitNat (getFlag p .c)) % 256 ∧ getFlag q .c = v.getLsbD 7)

/-- R125 (N cleared and Z exact: decision D11 of the spec) and R126 (decision D2): LSR and ROR, of the accumulator
and of memory: the byte halved, ROR with the old carry as bit 7; the carry becomes the old bit 0. -/
def Obligations.ShiftsRightMoveBitZeroToCarry : Prop :=
  RewritesOperand .lsr [.c, .n, .z] (fun v r _ q =>
    r.toNat = v.toNat / 2 ∧ getFlag q .c = v.getLsbD 0 ∧ getFlag q .n = false) ∧
  RewritesOperand .ror [.c, .n, .z] (fun v r p q =>
    r.toNat = v.toNat / 2 + 128 * bitNat (getFlag p .c) ∧ getFlag q .c = v.getLsbD 0)

/-! ### Increment, decrement, compare, bit test -/

/-- R130, R131 (flag path: decision D12 of the spec): INC and DEC, of the accumulator and of memory, wrap modulo
256, set N and Z, and leave C and V. -/
def Obligations.IncAndDecWrapAndLeaveCarry : Prop :=
  RewritesOperand .inc [.n, .z] (fun v r _ _ => r.toNat = (v.toNat + 1) % 256) ∧
  RewritesOperand .dec [.n, .z] (fun v r _ _ => r.toNat = (v.toNat + 255) % 256)

/-- R132 to R135 (flag path: decision D12 of the spec): INX, INY, DEX and DEY wrap modulo 256 and set N and Z. -/
def Obligations.IndexRegistersStepByOne : Prop :=
  SetsRegister .inx .x (fun s => BitVec.ofNat 8 (s.x.toNat + 1)) ∧
  SetsRegister .iny .y (fun s => BitVec.ofNat 8 (s.y.toNat + 1)) ∧
  SetsRegister .dex .x (fun s => BitVec.ofNat 8 (s.x.toNat + 255)) ∧
  SetsRegister .dey .y (fun s => BitVec.ofNat 8 (s.y.toNat + 255))

/-- R136, R137, R138: CMP, CPX and CPY write C, Z and N from the register and the operand byte, and nothing
else. -/
def Obligations.ComparesWriteCarryZeroNegativeOnly : Prop :=
  Compares .cmp State.a ∧ Compares .cpx State.x ∧ Compares .cpy State.y

/-- R139: BIT writes Z from `A & m` and N and V from bits 7 and 6 of the operand byte `m`, and nothing else. -/
def Obligations.BitTestCopiesBitsSevenAndSix : Prop :=
  ∀ (o : Operand) (s : State), ∃ t, exec (.bit o) s = .next t ∧
    (getFlag t.p .z = true ↔ s.a &&& operandByte o s = 0x00#8) ∧
    getFlag t.p .n = (operandByte o s).getLsbD 7 ∧ getFlag t.p .v = (operandByte o s).getLsbD 6 ∧
    PassesOperand o s t ∧ OnlyTouches [] [.z, .n, .v] [] s t

/-! ### Branches and flag instructions -/

/-- R145 to R153 with the target and charges of R93 (the charges not gated by `ADDCYCLES`: decision D10 of the
spec): each branch is taken exactly on its flag's value, and writes no flag, register or memory. -/
def Obligations.BranchesGoToTheirTargets : Prop :=
  BranchesWhen .bpl .n false ∧ BranchesWhen .bmi .n true ∧ BranchesWhen .bvc .v false ∧ BranchesWhen .bvs .v true ∧
  BranchesWhen .bcc .c false ∧ BranchesWhen .bcs .c true ∧ BranchesWhen .bne .z false ∧ BranchesWhen .beq .z true

/-- R154 to R160: each flag instruction writes its one flag and nothing else. -/
def Obligations.FlagInstructionsWriteOneFlag : Prop :=
  WritesFlag .clc .c false ∧ WritesFlag .sec .c true ∧ WritesFlag .cli .i false ∧ WritesFlag .sei .i true ∧
  WritesFlag .clv .v false ∧ WritesFlag .cld .d false ∧ WritesFlag .sed .d true

/-! ### ADC and SBC -/

/-- R171: binary ADC: the sum modulo 256, C the carry out, V exactly when the signed sum is outside −128..127. -/
def Obligations.BinaryAddIsExactModulo256 : Prop :=
  ∀ (o : Operand) (s : State), getFlag s.p .d = false → ∃ t, exec (.adc o) s = .next t ∧
    t.a.toNat = (s.a.toNat + (operandByte o s).toNat + bitNat (getFlag s.p .c)) % 256 ∧
    (getFlag t.p .c = true ↔ 255 < s.a.toNat + (operandByte o s).toNat + bitNat (getFlag s.p .c)) ∧
    (getFlag t.p .v = true ↔
      s.a.toInt + (operandByte o s).toInt + bitNat (getFlag s.p .c) < -128 ∨
      127 < s.a.toInt + (operandByte o s).toInt + bitNat (getFlag s.p .c)) ∧
    ShowsNZ t.a t ∧ PassesOperand o s t ∧ OnlyTouches [.a] [.n, .v, .z, .c] [] s t

/-- R172 (each nibble masked to four bits, C the decimal carry, V by the binary formula: decision D13 of the spec):
decimal ADC, nibble by nibble, for every operand, valid BCD or not; Z, N and V from the uncorrected pair. -/
def Obligations.DecimalAddCorrectsNibblesAndFlagsRawSum : Prop :=
  ∀ (o : Operand) (s : State) (lo hi alu : Nat), getFlag s.p .d = true →
    lo = lowNibble s.a + lowNibble (operandByte o s) + bitNat (getFlag s.p .c) →
    hi = highNibble s.a + highNibble (operandByte o s) + (if 9 < lo then 1 else 0) →
    alu = hi % 16 * 16 + lo % 16 →
    ∃ t, exec (.adc o) s = .next t ∧
      t.a.toNat = (hi + if 9 < hi then 6 else 0) % 16 * 16 + (lo + if 9 < lo then 6 else 0) % 16 ∧
      (getFlag t.p .c = true ↔ 9 < hi) ∧ (getFlag t.p .z = true ↔ alu = 0) ∧ (getFlag t.p .n = true ↔ 128 ≤ alu) ∧
      (getFlag t.p .v = true ↔ ((128 ≤ s.a.toNat ↔ 128 ≤ (operandByte o s).toNat) ∧ ¬(128 ≤ s.a.toNat ↔ 128 ≤ alu))) ∧
      PassesOperand o s t ∧ OnlyTouches [.a] [.n, .v, .z, .c] [] s t

/-- R174: binary SBC: `A - m - (1 - C)` modulo 256, C exactly when there is no borrow, V exactly when the signed
difference is outside −128..127. -/
def Obligations.BinarySubtractIsExactModulo256 : Prop :=
  ∀ (o : Operand) (s : State), getFlag s.p .d = false → ∃ t, exec (.sbc o) s = .next t ∧
    t.a.toNat = (s.a.toNat + 255 - (operandByte o s).toNat + bitNat (getFlag s.p .c)) % 256 ∧
    (getFlag t.p .c = true ↔ (operandByte o s).toNat + 1 ≤ s.a.toNat + bitNat (getFlag s.p .c)) ∧
    (getFlag t.p .v = true ↔
      s.a.toInt - (operandByte o s).toInt - 1 + bitNat (getFlag s.p .c) < -128 ∨
      127 < s.a.toInt - (operandByte o s).toInt - 1 + bitNat (getFlag s.p .c)) ∧
    ShowsNZ t.a t ∧ PassesOperand o s t ∧ OnlyTouches [.a] [.n, .v, .z, .c] [] s t

/-- R175 (the whole algorithm is decision D14 of the spec; notes/assumptions/7.md): decimal SBC, for every operand,
valid BCD or not: the nibbles of the binary difference, corrected by 10 and `0xA0` where they borrowed; N, V, Z
and C are those of the binary difference. -/
def Obligations.DecimalSubtractCorrectsBorrowedNibbles : Prop :=
  ∀ (o : Operand) (s : State) (n0 n1 diff : Nat), getFlag s.p .d = true →
    n0 = lowNibble s.a + (15 - lowNibble (operandByte o s)) + bitNat (getFlag s.p .c) →
    n1 = highNibble s.a + (15 - highNibble (operandByte o s)) + (if n0 ≤ 15 then 0 else 1) →
    diff = (s.a.toNat + 255 - (operandByte o s).toNat + bitNat (getFlag s.p .c)) % 256 →
    ∃ t, exec (.sbc o) s = .next t ∧
      t.a.toNat = (diff + if n1 ≤ 15 then 160 else 0) / 16 % 16 * 16 + (diff + if n0 ≤ 15 then 10 else 0) % 16 ∧
      (getFlag t.p .c = true ↔ (operandByte o s).toNat + 1 ≤ s.a.toNat + bitNat (getFlag s.p .c)) ∧
      (getFlag t.p .z = true ↔ diff = 0) ∧ (getFlag t.p .n = true ↔ 128 ≤ diff) ∧
      (getFlag t.p .v = true ↔
        s.a.toInt - (operandByte o s).toInt - 1 + bitNat (getFlag s.p .c) < -128 ∨
        127 < s.a.toInt - (operandByte o s).toInt - 1 + bitNat (getFlag s.p .c)) ∧
      PassesOperand o s t ∧ OnlyTouches [.a] [.n, .v, .z, .c] [] s t

/-- On valid BCD operands decimal ADC leaves the BCD of the sum modulo 100 (R172), and C is the decimal carry, which
is decision D13 of the spec (notes/assumptions/12.md). -/
def Obligations.DecimalAddOfValidBcdIsTheDecimalSum : Prop :=
  ∀ (o : Operand) (s : State), getFlag s.p .d = true → ValidBcd s.a → ValidBcd (operandByte o s) →
    ∃ t, exec (.adc o) s = .next t ∧ ValidBcd t.a ∧
      decimalValue t.a = (decimalValue s.a + decimalValue (operandByte o s) + bitNat (getFlag s.p .c)) % 100 ∧
      (getFlag t.p .c = true ↔ 99 < decimalValue s.a + decimalValue (operandByte o s) + bitNat (getFlag s.p .c))

/-- On valid BCD operands decimal SBC leaves the BCD of the difference modulo 100, and C means no borrow (R175; its
algorithm and its C are decision D14 of the spec: notes/assumptions/7.md). -/
def Obligations.DecimalSubtractOfValidBcdIsTheDecimalDifference : Prop :=
  ∀ (o : Operand) (s : State), getFlag s.p .d = true → ValidBcd s.a → ValidBcd (operandByte o s) →
    ∃ t, exec (.sbc o) s = .next t ∧ ValidBcd t.a ∧
      decimalValue t.a =
        (decimalValue s.a + 99 - decimalValue (operandByte o s) + bitNat (getFlag s.p .c)) % 100 ∧
      (getFlag t.p .c = true ↔ decimalValue (operandByte o s) + 1 ≤ decimalValue s.a + bitNat (getFlag s.p .c))

/-- Binary SBC of `b` with carry `1 - c` undoes binary ADC of `b` with carry `c` (R174, conflict C2). -/
def Obligations.SubtractUndoesAddWithTheCarryInverted : Prop :=
  ∀ (a b : Byte) (c : Bool), (sbcBinary (adcBinary a b c).acc b (!c)).acc = a

/-! ### The stack and control transfer -/

/-- R180, R181: a push stores at the stack address and then lowers `S`, a pop raises `S` and then reads; both wrap
in page one. -/
def Obligations.PushAndPopWrapInPageOne : Prop :=
  ∀ (v : Byte) (s : State),
    ((Memory.wf s.mem = true → readByte (push v s) (stackBelow s 0) = v) ∧
      (push v s).sp.toNat = (s.sp.toNat + 255) % 256 ∧ PassesNothing s (push v s) ∧
      OnlyTouches [.sp] [] [stackBelow s 0] s (push v s)) ∧
    ((pop s).1 = readByte s (stackAbove s 1) ∧ (pop s).2.sp.toNat = (s.sp.toNat + 1) % 256 ∧
      PassesNothing s (pop s).2 ∧ OnlyTouches [.sp] [] [] s (pop s).2)

/-- R182, R183: a pushed word lies with its high byte at the stack address and its low byte below it, and popping
it gives it back with `S` as it was, whatever `S` was. -/
def Obligations.PoppedWordIsThePushedWord : Prop :=
  ∀ (w : Word) (s : State), Memory.wf s.mem = true →
    readByte (pushWord w s) (stackBelow s 0) = hiByte w ∧ readByte (pushWord w s) (stackBelow s 1) = loByte w ∧
    (pushWord w s).sp.toNat = (s.sp.toNat + 254) % 256 ∧
    (popWord (pushWord w s)).1 = w ∧ (popWord (pushWord w s)).2.sp = s.sp

/-- `n` pushes lower `S` by `n` modulo 256, so that 256 pushes bring it back to its start (R180). -/
def Obligations.PushesWrapTheStackIndex : Prop :=
  ∀ (bytes : List Byte) (s : State),
    (bytes.foldl (fun t v => push v t) s).sp.toNat = (s.sp.toNat + 255 * bytes.length) % 256 ∧
    (bytes.length = 256 → (bytes.foldl (fun t v => push v t) s).sp = s.sp)

/-- R184, R226 (Break in the live `P`: decision D21 of the spec): BRK pushes `PC` and `P` with Break and Unused set,
sets I and B, and goes to the address in the word at `0xFFFE`; nothing else changes. -/
def Obligations.BrkSavesStateAndEntersTheVector : Prop :=
  ∀ s : State, ∃ t, exec .brk s = .next t ∧
    (Memory.wf s.mem = true → readByte t (stackBelow s 0) = hiByte s.pc ∧ readByte t (stackBelow s 1) = loByte s.pc ∧
      readByte t (stackBelow s 2) = s.p ||| 0x30#8) ∧
    t.sp.toNat = (s.sp.toNat + 253) % 256 ∧ t.p = s.p ||| 0x14#8 ∧
    t.pc.toNat = (readByte s 0xFFFE#16).toNat + 256 * (readByte s 0xFFFF#16).toNat ∧
    t.excycles = s.excycles ∧
    OnlyTouches [.sp] [.i, .b] [stackBelow s 0, stackBelow s 1, stackBelow s 2] s t

/-- R185: RTI loads `P` from the stack with Break and Unused forced set, then `PC` exactly as popped. -/
def Obligations.RtiRestoresStatusAndPc : Prop :=
  ∀ s : State, ∃ t, exec .rti s = .next t ∧ t.p = readByte s (stackAbove s 1) ||| 0x30#8 ∧
    t.pc.toNat = (readByte s (stackAbove s 2)).toNat + 256 * (readByte s (stackAbove s 3)).toNat ∧
    t.sp.toNat = (s.sp.toNat + 3) % 256 ∧ t.excycles = s.excycles ∧
    OnlyTouches [.sp] [.n, .v, .u, .b, .d, .i, .z, .c] [] s t

/-- RTI after BRK restores `PC` to the byte after the BRK opcode, `S`, and every flag of before the BRK but Break
and Unused, which are set (R185, R227); where RTI stands does not matter. -/
def Obligations.RtiUndoesBrk : Prop :=
  ∀ (s : State) (rtiPc : Word), Memory.wf s.mem = true → ∃ t u, exec .brk s = .next t ∧
    exec .rti (t.setPc rtiPc) = .next u ∧ u.pc = s.pc ∧ u.sp = s.sp ∧ u.p = s.p ||| 0x30#8 ∧
    u.a = s.a ∧ u.x = s.x ∧ u.y = s.y

/-- R186 (the push comes before the target is read: decision D15 of the spec): JSR pushes the address of its last
operand byte and goes to the word then standing at `PC`, which is its operand unless the push overwrote it. -/
def Obligations.JsrPushesTheReturnAddressAndJumps : Prop :=
  ∀ (target : Word) (s : State), ∃ t, exec (.jsr target) s = .next t ∧
    (Memory.wf s.mem = true → readByte t (stackBelow s 0) = hiByte (s.pc + 1#16) ∧
      readByte t (stackBelow s 1) = loByte (s.pc + 1#16)) ∧
    t.pc.toNat = (readByte t s.pc).toNat + 256 * (readByte t (s.pc + 1#16)).toNat ∧
    (readByte s s.pc = loByte target → readByte s (s.pc + 1#16) = hiByte target →
      s.pc ∉ [stackBelow s 0, stackBelow s 1] → s.pc + 1#16 ∉ [stackBelow s 0, stackBelow s 1] → t.pc = target) ∧
    t.sp.toNat = (s.sp.toNat + 254) % 256 ∧ t.excycles = s.excycles ∧
    OnlyTouches [.sp] [] [stackBelow s 0, stackBelow s 1] s t

/-- R187: RTS pops a word and goes to the address after it, modulo `0x10000`. -/
def Obligations.RtsReturnsPastThePoppedWord : Prop :=
  ∀ s : State, ∃ t, exec .rts s = .next t ∧
    t.pc.toNat = ((readByte s (stackAbove s 1)).toNat + 256 * (readByte s (stackAbove s 2)).toNat + 1) % 65536 ∧
    t.sp.toNat = (s.sp.toNat + 2) % 256 ∧ t.excycles = s.excycles ∧ OnlyTouches [.sp] [] [] s t

/-- RTS after JSR returns to the instruction after the JSR, with `S` as it was (R186, R187). -/
def Obligations.RtsReturnsAfterJsr : Prop :=
  ∀ (target : Word) (s : State) (rtsPc : Word), Memory.wf s.mem = true → ∃ t u, exec (.jsr target) s = .next t ∧
    exec .rts (t.setPc rtsPc) = .next u ∧ u.pc = s.pc + 2#16 ∧ u.sp = s.sp ∧ u.p = s.p ∧
    u.a = s.a ∧ u.x = s.x ∧ u.y = s.y

/-- R188, R189: JMP goes to its operand; JMP indirect goes to the word its operand points at, the high byte taken
from within the page of the low byte; nothing else changes. -/
def Obligations.JumpsGoToTheirTargets : Prop :=
  ∀ (w : Word) (s : State),
    (∃ t, exec (.jmpAbs w) s = .next t ∧ t.pc = w ∧ t.excycles = s.excycles ∧ OnlyTouches [] [] [] s t) ∧
    (∃ t, exec (.jmpInd w) s = .next t ∧
      t.pc.toNat = (readByte s w).toNat +
        256 * (readByte s (BitVec.ofNat 16 (w.toNat / 256 * 256 + (w.toNat + 1) % 256))).toNat ∧
      t.excycles = s.excycles ∧ OnlyTouches [] [] [] s t)

/-! ### Transfers, stack instructions, NOP, unknown opcodes -/

/-- R201, R203, R204, R205: TAX, TAY and TSX copy and set N and Z; TXS copies and sets no flag. -/
def Obligations.TransfersToIndexAndStackRegisters : Prop :=
  SetsRegister .tax .x State.a ∧ SetsRegister .tay .y State.a ∧ SetsRegister .tsx .x State.sp ∧
  ∀ s : State, ∃ t, exec .txs s = .next t ∧ t.sp = s.x ∧ PassesNothing s t ∧ OnlyTouches [.sp] [] [] s t

/-- R200, R202 (that they set N and Z: decision D16 of the spec): TXA and TYA copy to `A` and set N and Z. -/
def Obligations.TransfersToTheAccumulator : Prop :=
  SetsRegister .txa .a State.x ∧ SetsRegister .tya .a State.y

/-- R206, R207: PHA pushes `A` and sets no flag; PLA pulls it and sets N and Z. -/
def Obligations.AccumulatorPushAndPull : Prop :=
  ∀ s : State,
    (∃ t, exec .pha s = .next t ∧ (Memory.wf s.mem = true → readByte t (stackBelow s 0) = s.a) ∧
      t.sp.toNat = (s.sp.toNat + 255) % 256 ∧ PassesNothing s t ∧ OnlyTouches [.sp] [] [stackBelow s 0] s t) ∧
    (∃ t, exec .pla s = .next t ∧ t.a = readByte s (stackAbove s 1) ∧ ShowsNZ t.a t ∧
      t.sp.toNat = (s.sp.toNat + 1) % 256 ∧ PassesNothing s t ∧ OnlyTouches [.a, .sp] [.n, .z] [] s t)

/-- R208, R209 (both supplied by decision D2 of the spec): PHP pushes `P` with Break and Unused set; PLP loads `P`
with both forced set. -/
def Obligations.StatusPushAndPull : Prop :=
  ∀ s : State,
    (∃ t, exec .php s = .next t ∧ (Memory.wf s.mem = true → readByte t (stackBelow s 0) = s.p ||| 0x30#8) ∧
      t.sp.toNat = (s.sp.toNat + 255) % 256 ∧ PassesNothing s t ∧ OnlyTouches [.sp] [] [stackBelow s 0] s t) ∧
    (∃ t, exec .plp s = .next t ∧ t.p = readByte s (stackAbove s 1) ||| 0x30#8 ∧
      t.sp.toNat = (s.sp.toNat + 1) % 256 ∧ PassesNothing s t ∧
      OnlyTouches [.sp] [.n, .v, .u, .b, .d, .i, .z, .c] [] s t)

/-- R210 (supplied by decision D2 of the spec): NOP completes and changes nothing. -/
def Obligations.NopChangesNothing : Prop :=
  ∀ s : State, ∃ t, exec .nop s = .next t ∧ PassesNothing s t ∧ OnlyTouches [] [] [] s t

/-- R211: under the policy `skip` an unknown opcode passes one more byte and changes nothing else; in a step `PC`
ends two past the opcode. Under `fault` the model records the fault. The list of 91 bytes is decision D3 of the spec,
the policy `fault` decision D5 (notes/assumptions/18.md). -/
def Obligations.UnknownOpcodeSkipsOneByteOrFaults : Prop :=
  (∀ (op : Byte) (s : State), s.config.unknownPolicy = .skip →
    ∃ t, exec (.unk op) s = .next t ∧ t.pc = s.pc + 1#16 ∧ t.excycles = s.excycles ∧ OnlyTouches [] [] [] s t) ∧
  (∀ s : State, s.config.unknownPolicy = .skip → unknownOpcodes.contains (readByte s s.pc) = true →
    step s = .next (s.setPc (s.pc + 2#16))) ∧
  (∀ (op : Byte) (s : State), s.config.unknownPolicy = .fault → exec (.unk op) s = .fault (.unknownOpcode op))

/-! ### The host's operations -/

/-- R240: reset zeroes `A`, `X` and `Y`, sets `S` to `0xFF` and `P` to `0x30`, loads `PC` from `RESET_PC`, and
leaves memory untouched. -/
def Obligations.ResetLoadsTheResetValues : Prop :=
  ∀ s : State, (hostReset s).a = 0x00#8 ∧ (hostReset s).x = 0x00#8 ∧ (hostReset s).y = 0x00#8 ∧
    (hostReset s).sp = 0xFF#8 ∧ (hostReset s).p = 0x30#8 ∧ (hostReset s).pc = s.config.resetPc ∧
    (hostReset s).mem = s.mem

/-- R244: a run that halts ends in the first state of which `HALT` is true, reached by steps alone. The bound on the
number of steps is the model's (notes/assumptions/21.md). -/
def Obligations.RunEndsAtTheFirstHaltingState : Prop :=
  ∀ (halt : State → Bool) (bound : Nat) (s t : State), hostRun halt bound s = .halted t →
    halt t = true ∧ ∃ k, k ≤ bound ∧ Host.Core.run Sys2Proof.core k s = .next t ∧
      ∀ (j : Nat) (u : State), j < k → Host.Core.run Sys2Proof.core j s = .next u → halt u = false
end

