-- ==== Sys2Proof/Laws/Bits.lean ====
section
/-! SUPPORT. The laws of bytes and words: splitting a word and joining two bytes (R12, R42), and the numbers they
stand for. -/

namespace Sys2Proof.Machine

theorem leWord_toNat (lo hi : Byte) : (leWord lo hi).toNat = lo.toNat + 256 * hi.toNat := by
  have hl := lo.isLt
  show (hi ++ lo).toNat = _
  rw [BitVec.toNat_append, Nat.shiftLeft_eq, Nat.mul_comm, ← Nat.two_pow_add_eq_or_of_lt hl]
  omega

theorem loByte_toNat (w : Word) : (loByte w).toNat = w.toNat % 256 := by
  simp [loByte, BitVec.extractLsb'_toNat]

theorem hiByte_toNat (w : Word) : (hiByte w).toNat = w.toNat / 256 := by
  have hw := w.isLt
  simp only [hiByte, BitVec.extractLsb'_toNat, Nat.shiftRight_eq_div_pow]
  omega

theorem zext_toNat (b : Byte) : (zext b).toNat = b.toNat := by
  have hb := b.isLt
  simp only [zext, BitVec.toNat_setWidth]
  omega

/-- The two bytes of a word, joined, are the word. -/
@[simp] theorem leWord_lo_hi (w : Word) : leWord (loByte w) (hiByte w) = w := by
  refine BitVec.eq_of_toNat_eq ?_
  rw [leWord_toNat, loByte_toNat, hiByte_toNat]
  omega

@[simp] theorem loByte_leWord (lo hi : Byte) : loByte (leWord lo hi) = lo := by
  have hl := lo.isLt
  refine BitVec.eq_of_toNat_eq ?_
  rw [loByte_toNat, leWord_toNat]
  omega

@[simp] theorem hiByte_leWord (lo hi : Byte) : hiByte (leWord lo hi) = hi := by
  have hl := lo.isLt
  refine BitVec.eq_of_toNat_eq ?_
  rw [hiByte_toNat, leWord_toNat]
  omega

/-- High byte of one word and low byte of another, by masks (R12, R43). -/
theorem masked_or_eq (u v : Word) : (u &&& 0xFF00#16) ||| (v &&& 0x00FF#16) = leWord (loByte v) (hiByte u) := by
  refine BitVec.eq_of_getLsbD_eq fun i hi => ?_
  have split : (leWord (loByte v) (hiByte u)).getLsbD i = if i < 8 then v.getLsbD i else u.getLsbD i := by
    show (hiByte u ++ loByte v).getLsbD i = _
    rw [BitVec.getLsbD_append]
    by_cases h : i < 8
    · simp [h, loByte]
    · have h8 : i - 8 < 8 := by omega
      have he : 8 + (i - 8) = i := by omega
      simp [h, h8, he, hiByte]
  rw [split]
  interval_cases i <;> simp

/-- The page of a word as a number. -/
theorem pageOf_toNat (w : Word) : (pageOf w).toNat = w.toNat / 256 * 256 := by
  have h : pageOf w = leWord 0#8 (hiByte w) := by
    have := masked_or_eq w 0#16
    simpa [pageOf, loByte] using this
  rw [h, leWord_toNat, hiByte_toNat]
  simp only [BitVec.toNat_ofNat]
  omega

/-- The address R43 takes the high byte from: the next one within the same page. -/
theorem wrapAddr_toNat (addr : Word) :
    ((addr &&& 0xFF00#16) ||| ((addr + 1#16) &&& 0x00FF#16)).toNat =
      addr.toNat / 256 * 256 + (addr.toNat + 1) % 256 := by
  rw [masked_or_eq, leWord_toNat, hiByte_toNat, loByte_toNat, BitVec.toNat_add]
  simp only [BitVec.toNat_ofNat]
  omega

/-- Two words are in the same page exactly when their high bytes agree. -/
theorem pageOf_eq_iff (v w : Word) : pageOf v = pageOf w ↔ v.toNat / 256 = w.toNat / 256 := by
  rw [← BitVec.toNat_inj, pageOf_toNat, pageOf_toNat]
  omega

end Sys2Proof.Machine
end

