-- ==== Sys2Proof/Laws/Decode.lean ====
section
/-! SUPPORT. The dispatch table entry by entry: what it builds is well-formed and has that opcode and those operand
bytes. -/

namespace Sys2Proof

open Sys2Proof.Machine

/-- An entry of the dispatch table builds well-formed instructions with the given opcode byte and with the operand
bytes they are built from. -/
def OpcodeRow.Correct (op : Byte) : OpcodeRow → Prop
  | .f0 i => i.wellFormed = true ∧ i.opcode = some op ∧ i.operandBytes = []
  | .f1 build => ∀ ll, (build ll).wellFormed = true ∧ (build ll).opcode = some op ∧ (build ll).operandBytes = [ll]
  | .f2 build => ∀ w, (build w).wellFormed = true ∧ (build w).opcode = some op ∧
      (build w).operandBytes = [loByte w, hiByte w]

/-- Every entry of the table is correct (R63, R65, R66). -/
theorem opcodeRow_correct (op : Byte) : (opcodeRow op).Correct op := by
  have key : ∀ n, n < 256 → (opcodeRow (BitVec.ofNat 8 n)).Correct (BitVec.ofNat 8 n) := by
    intro n hn
    interval_cases n
    all_goals first
      | exact ⟨rfl, rfl, rfl⟩
      | exact fun _ => ⟨rfl, rfl, rfl⟩
  simpa using key op.toNat op.isLt

/-- Everything the decoder can do when it answers an instruction: one case for each format (R60). -/
theorem decode_cases {op : Byte} {bytes rest : List Byte} {i : Instr} (h : decode (op :: bytes) = .instr i rest) :
    (opcodeRow op = .f0 i ∧ bytes = rest) ∨
    (∃ build ll, opcodeRow op = .f1 build ∧ bytes = ll :: rest ∧ i = build ll) ∨
    (∃ build ll hh, opcodeRow op = .f2 build ∧ bytes = ll :: hh :: rest ∧ i = build (leWord ll hh)) := by
  simp only [decode] at h
  split at h
  · next hr => cases h; exact .inl ⟨hr, rfl⟩
  · next hr => cases h; exact .inr (.inl ⟨_, _, hr, rfl, rfl⟩)
  · next hr => cases h; exact .inr (.inr ⟨_, _, _, hr, rfl, rfl⟩)
  all_goals cases h

end Sys2Proof
end

