-- ==== Sys2Proof/Laws/State.lean ====
section
/-! SUPPORT. One lemma per field per update of the state, true by `rfl`, so that no later proof unfolds a record
update. -/

namespace Sys2Proof.Machine

@[simp] theorem State.setA_a (s : State) (v : Byte) : (s.setA v).a = v := rfl
@[simp] theorem State.setA_x (s : State) (v : Byte) : (s.setA v).x = s.x := rfl
@[simp] theorem State.setA_y (s : State) (v : Byte) : (s.setA v).y = s.y := rfl
@[simp] theorem State.setA_sp (s : State) (v : Byte) : (s.setA v).sp = s.sp := rfl
@[simp] theorem State.setA_p (s : State) (v : Byte) : (s.setA v).p = s.p := rfl
@[simp] theorem State.setA_pc (s : State) (v : Byte) : (s.setA v).pc = s.pc := rfl
@[simp] theorem State.setA_mem (s : State) (v : Byte) : (s.setA v).mem = s.mem := rfl
@[simp] theorem State.setA_excycles (s : State) (v : Byte) : (s.setA v).excycles = s.excycles := rfl
@[simp] theorem State.setA_processorCycles (s : State) (v : Byte) : (s.setA v).processorCycles = s.processorCycles := rfl
@[simp] theorem State.setA_config (s : State) (v : Byte) : (s.setA v).config = s.config := rfl

@[simp] theorem State.setX_a (s : State) (v : Byte) : (s.setX v).a = s.a := rfl
@[simp] theorem State.setX_x (s : State) (v : Byte) : (s.setX v).x = v := rfl
@[simp] theorem State.setX_y (s : State) (v : Byte) : (s.setX v).y = s.y := rfl
@[simp] theorem State.setX_sp (s : State) (v : Byte) : (s.setX v).sp = s.sp := rfl
@[simp] theorem State.setX_p (s : State) (v : Byte) : (s.setX v).p = s.p := rfl
@[simp] theorem State.setX_pc (s : State) (v : Byte) : (s.setX v).pc = s.pc := rfl
@[simp] theorem State.setX_mem (s : State) (v : Byte) : (s.setX v).mem = s.mem := rfl
@[simp] theorem State.setX_excycles (s : State) (v : Byte) : (s.setX v).excycles = s.excycles := rfl
@[simp] theorem State.setX_processorCycles (s : State) (v : Byte) : (s.setX v).processorCycles = s.processorCycles := rfl
@[simp] theorem State.setX_config (s : State) (v : Byte) : (s.setX v).config = s.config := rfl

@[simp] theorem State.setY_a (s : State) (v : Byte) : (s.setY v).a = s.a := rfl
@[simp] theorem State.setY_x (s : State) (v : Byte) : (s.setY v).x = s.x := rfl
@[simp] theorem State.setY_y (s : State) (v : Byte) : (s.setY v).y = v := rfl
@[simp] theorem State.setY_sp (s : State) (v : Byte) : (s.setY v).sp = s.sp := rfl
@[simp] theorem State.setY_p (s : State) (v : Byte) : (s.setY v).p = s.p := rfl
@[simp] theorem State.setY_pc (s : State) (v : Byte) : (s.setY v).pc = s.pc := rfl
@[simp] theorem State.setY_mem (s : State) (v : Byte) : (s.setY v).mem = s.mem := rfl
@[simp] theorem State.setY_excycles (s : State) (v : Byte) : (s.setY v).excycles = s.excycles := rfl
@[simp] theorem State.setY_processorCycles (s : State) (v : Byte) : (s.setY v).processorCycles = s.processorCycles := rfl
@[simp] theorem State.setY_config (s : State) (v : Byte) : (s.setY v).config = s.config := rfl

@[simp] theorem State.setSp_a (s : State) (v : Byte) : (s.setSp v).a = s.a := rfl
@[simp] theorem State.setSp_x (s : State) (v : Byte) : (s.setSp v).x = s.x := rfl
@[simp] theorem State.setSp_y (s : State) (v : Byte) : (s.setSp v).y = s.y := rfl
@[simp] theorem State.setSp_sp (s : State) (v : Byte) : (s.setSp v).sp = v := rfl
@[simp] theorem State.setSp_p (s : State) (v : Byte) : (s.setSp v).p = s.p := rfl
@[simp] theorem State.setSp_pc (s : State) (v : Byte) : (s.setSp v).pc = s.pc := rfl
@[simp] theorem State.setSp_mem (s : State) (v : Byte) : (s.setSp v).mem = s.mem := rfl
@[simp] theorem State.setSp_excycles (s : State) (v : Byte) : (s.setSp v).excycles = s.excycles := rfl
@[simp] theorem State.setSp_processorCycles (s : State) (v : Byte) : (s.setSp v).processorCycles = s.processorCycles := rfl
@[simp] theorem State.setSp_config (s : State) (v : Byte) : (s.setSp v).config = s.config := rfl

@[simp] theorem State.setP_a (s : State) (v : Byte) : (s.setP v).a = s.a := rfl
@[simp] theorem State.setP_x (s : State) (v : Byte) : (s.setP v).x = s.x := rfl
@[simp] theorem State.setP_y (s : State) (v : Byte) : (s.setP v).y = s.y := rfl
@[simp] theorem State.setP_sp (s : State) (v : Byte) : (s.setP v).sp = s.sp := rfl
@[simp] theorem State.setP_p (s : State) (v : Byte) : (s.setP v).p = v := rfl
@[simp] theorem State.setP_pc (s : State) (v : Byte) : (s.setP v).pc = s.pc := rfl
@[simp] theorem State.setP_mem (s : State) (v : Byte) : (s.setP v).mem = s.mem := rfl
@[simp] theorem State.setP_excycles (s : State) (v : Byte) : (s.setP v).excycles = s.excycles := rfl
@[simp] theorem State.setP_processorCycles (s : State) (v : Byte) : (s.setP v).processorCycles = s.processorCycles := rfl
@[simp] theorem State.setP_config (s : State) (v : Byte) : (s.setP v).config = s.config := rfl

@[simp] theorem State.setPc_a (s : State) (v : Word) : (s.setPc v).a = s.a := rfl
@[simp] theorem State.setPc_x (s : State) (v : Word) : (s.setPc v).x = s.x := rfl
@[simp] theorem State.setPc_y (s : State) (v : Word) : (s.setPc v).y = s.y := rfl
@[simp] theorem State.setPc_sp (s : State) (v : Word) : (s.setPc v).sp = s.sp := rfl
@[simp] theorem State.setPc_p (s : State) (v : Word) : (s.setPc v).p = s.p := rfl
@[simp] theorem State.setPc_pc (s : State) (v : Word) : (s.setPc v).pc = v := rfl
@[simp] theorem State.setPc_mem (s : State) (v : Word) : (s.setPc v).mem = s.mem := rfl
@[simp] theorem State.setPc_excycles (s : State) (v : Word) : (s.setPc v).excycles = s.excycles := rfl
@[simp] theorem State.setPc_processorCycles (s : State) (v : Word) : (s.setPc v).processorCycles = s.processorCycles := rfl
@[simp] theorem State.setPc_config (s : State) (v : Word) : (s.setPc v).config = s.config := rfl

@[simp] theorem State.setMem_a (s : State) (v : Memory) : (s.setMem v).a = s.a := rfl
@[simp] theorem State.setMem_x (s : State) (v : Memory) : (s.setMem v).x = s.x := rfl
@[simp] theorem State.setMem_y (s : State) (v : Memory) : (s.setMem v).y = s.y := rfl
@[simp] theorem State.setMem_sp (s : State) (v : Memory) : (s.setMem v).sp = s.sp := rfl
@[simp] theorem State.setMem_p (s : State) (v : Memory) : (s.setMem v).p = s.p := rfl
@[simp] theorem State.setMem_pc (s : State) (v : Memory) : (s.setMem v).pc = s.pc := rfl
@[simp] theorem State.setMem_mem (s : State) (v : Memory) : (s.setMem v).mem = v := rfl
@[simp] theorem State.setMem_excycles (s : State) (v : Memory) : (s.setMem v).excycles = s.excycles := rfl
@[simp] theorem State.setMem_processorCycles (s : State) (v : Memory) : (s.setMem v).processorCycles = s.processorCycles := rfl
@[simp] theorem State.setMem_config (s : State) (v : Memory) : (s.setMem v).config = s.config := rfl

@[simp] theorem State.addExcycles_a (s : State) (n : Nat) : (s.addExcycles n).a = s.a := rfl
@[simp] theorem State.addExcycles_x (s : State) (n : Nat) : (s.addExcycles n).x = s.x := rfl
@[simp] theorem State.addExcycles_y (s : State) (n : Nat) : (s.addExcycles n).y = s.y := rfl
@[simp] theorem State.addExcycles_sp (s : State) (n : Nat) : (s.addExcycles n).sp = s.sp := rfl
@[simp] theorem State.addExcycles_p (s : State) (n : Nat) : (s.addExcycles n).p = s.p := rfl
@[simp] theorem State.addExcycles_pc (s : State) (n : Nat) : (s.addExcycles n).pc = s.pc := rfl
@[simp] theorem State.addExcycles_mem (s : State) (n : Nat) : (s.addExcycles n).mem = s.mem := rfl
@[simp] theorem State.addExcycles_excycles (s : State) (n : Nat) : (s.addExcycles n).excycles = s.excycles + n := rfl
@[simp] theorem State.addExcycles_processorCycles (s : State) (n : Nat) : (s.addExcycles n).processorCycles = s.processorCycles := rfl
@[simp] theorem State.addExcycles_config (s : State) (n : Nat) : (s.addExcycles n).config = s.config := rfl

end Sys2Proof.Machine
end

