-- ==== Sys2Proof/Laws/Flags.lean ====
section
/-! SUPPORT. The laws of the status register: each flag after each write of `P`, and each flag computation. -/

namespace Sys2Proof.Machine

@[simp] theorem getFlag_setFlag (p : Byte) (f g : Flag) :
    getFlag (setFlag p f) g = if g = f then true else getFlag p g := by
  cases f <;> cases g <;> simp [getFlag, setFlag, Flag.mask, Flag.bit]

@[simp] theorem getFlag_clearFlag (p : Byte) (f g : Flag) :
    getFlag (clearFlag p f) g = if g = f then false else getFlag p g := by
  cases f <;> cases g <;> simp [getFlag, clearFlag, Flag.mask, Flag.bit]

@[simp] theorem getFlag_putFlag (p : Byte) (f g : Flag) (v : Bool) :
    getFlag (putFlag p f v) g = if g = f then v else getFlag p g := by
  cases v <;> simp [putFlag]

/-- Break and Unused after they are forced; the other flags as they were. -/
@[simp] theorem getFlag_forceBreakUnused (p : Byte) (g : Flag) :
    getFlag (forceBreakUnused p) g = if g = .b ∨ g = .u then true else getFlag p g := by
  cases g <;> simp [getFlag, forceBreakUnused, Flag.bit]

/-- Interrupt-disable and Break after a trap; the other flags as they were. -/
@[simp] theorem getFlag_trapStatus (p : Byte) (g : Flag) :
    getFlag (trapStatus p) g = if g = .i ∨ g = .b then true else getFlag p g := by
  cases g <;> simp [getFlag, trapStatus, Flag.bit]

/-- The mask test of a branch reads the flag (R145). -/
@[simp] theorem maskClear_eq (p : Byte) (f : Flag) : maskClear p f = !getFlag p f := by
  have h : ∀ q : Byte, ∀ g : Flag, maskClear q g = !getFlag q g := by
    intro q g
    have := q.isLt
    revert q
    cases g <;> decide
  exact h p f

/-- Two status bytes with the same flags are the same byte. -/
theorem status_ext {p q : Byte} (h : ∀ f, getFlag p f = getFlag q f) : p = q := by
  refine BitVec.eq_of_getLsbD_eq fun i hi => ?_
  have hb : ∀ f : Flag, p.getLsbD f.bit = q.getLsbD f.bit := h
  match i, hi with
  | 0, _ => exact hb .c
  | 1, _ => exact hb .z
  | 2, _ => exact hb .i
  | 3, _ => exact hb .d
  | 4, _ => exact hb .b
  | 5, _ => exact hb .u
  | 6, _ => exact hb .v
  | 7, _ => exact hb .n

/-- Every flag after `FlagsNZ` (R98). -/
@[simp] theorem getFlag_flagsNZ (v p : Byte) (g : Flag) :
    getFlag (flagsNZ v p) g =
      if g = .z then decide (v = 0x00#8) else if g = .n then v.getLsbD 7 else getFlag p g := by
  unfold flagsNZ
  by_cases h : v = 0x00#8
  · subst h; cases g <;> simp
  · cases g <;> simp [h]

@[simp] theorem getFlag_flagsCompare (r m p : Byte) (g : Flag) :
    getFlag (flagsCompare r m p) g =
      if g = .c then decide (m.toNat ≤ r.toNat) else if g = .z then r == m
      else if g = .n then (r - m).getLsbD 7 else getFlag p g := by
  cases g <;> simp [flagsCompare]

@[simp] theorem getFlag_flagsBit (a m p : Byte) (g : Flag) :
    getFlag (flagsBit a m p) g =
      if g = .z then a &&& m == 0x00#8 else if g = .n then m.getLsbD 7
      else if g = .v then m.getLsbD 6 else getFlag p g := by
  cases g <;> simp [flagsBit]

@[simp] theorem getFlag_flagsAlu (r : AluResult) (p : Byte) (g : Flag) :
    getFlag (flagsAlu r p) g =
      if g = .z then r.z else if g = .n then r.n else if g = .c then r.c else if g = .v then r.v
      else getFlag p g := by
  cases g <;> simp [flagsAlu]

/-- Break and Unused both set, in terms of the flags (R27). -/
theorem breakUnused_iff (p : Byte) :
    p &&& 0x30#8 = 0x30#8 ↔ getFlag p .b = true ∧ getFlag p .u = true := by
  have h : ∀ q : Byte, q &&& 0x30#8 = 0x30#8 ↔ getFlag q .b = true ∧ getFlag q .u = true := by decide
  exact h p

end Sys2Proof.Machine
end

