-- ==== Sys2Proof/Laws/Ops.lean ====
section
/-! SUPPORT. Everything each shared operation does to each field of the state. -/

namespace Sys2Proof.Machine

@[simp] theorem writeByte_a (s : State) (addr : Word) (v : Byte) : (writeByte s addr v).a = s.a := rfl
@[simp] theorem writeByte_x (s : State) (addr : Word) (v : Byte) : (writeByte s addr v).x = s.x := rfl
@[simp] theorem writeByte_y (s : State) (addr : Word) (v : Byte) : (writeByte s addr v).y = s.y := rfl
@[simp] theorem writeByte_sp (s : State) (addr : Word) (v : Byte) : (writeByte s addr v).sp = s.sp := rfl
@[simp] theorem writeByte_p (s : State) (addr : Word) (v : Byte) : (writeByte s addr v).p = s.p := rfl
@[simp] theorem writeByte_pc (s : State) (addr : Word) (v : Byte) : (writeByte s addr v).pc = s.pc := rfl
@[simp] theorem writeByte_mem (s : State) (addr : Word) (v : Byte) : (writeByte s addr v).mem = Memory.write s.mem addr.toNat v := rfl
@[simp] theorem writeByte_excycles (s : State) (addr : Word) (v : Byte) : (writeByte s addr v).excycles = s.excycles := rfl
@[simp] theorem writeByte_processorCycles (s : State) (addr : Word) (v : Byte) : (writeByte s addr v).processorCycles = s.processorCycles := rfl
@[simp] theorem writeByte_config (s : State) (addr : Word) (v : Byte) : (writeByte s addr v).config = s.config := rfl

@[simp] theorem push_a (v : Byte) (s : State) : (push v s).a = s.a := rfl
@[simp] theorem push_x (v : Byte) (s : State) : (push v s).x = s.x := rfl
@[simp] theorem push_y (v : Byte) (s : State) : (push v s).y = s.y := rfl
@[simp] theorem push_sp (v : Byte) (s : State) : (push v s).sp = s.sp - 1#8 := rfl
@[simp] theorem push_p (v : Byte) (s : State) : (push v s).p = s.p := rfl
@[simp] theorem push_pc (v : Byte) (s : State) : (push v s).pc = s.pc := rfl
@[simp] theorem push_mem (v : Byte) (s : State) : (push v s).mem = Memory.write s.mem (stackAddr s.sp).toNat v := rfl
@[simp] theorem push_excycles (v : Byte) (s : State) : (push v s).excycles = s.excycles := rfl
@[simp] theorem push_processorCycles (v : Byte) (s : State) : (push v s).processorCycles = s.processorCycles := rfl
@[simp] theorem push_config (v : Byte) (s : State) : (push v s).config = s.config := rfl

@[simp] theorem pop_a (s : State) : ((pop s).2).a = s.a := rfl
@[simp] theorem pop_x (s : State) : ((pop s).2).x = s.x := rfl
@[simp] theorem pop_y (s : State) : ((pop s).2).y = s.y := rfl
@[simp] theorem pop_sp (s : State) : ((pop s).2).sp = s.sp + 1#8 := rfl
@[simp] theorem pop_p (s : State) : ((pop s).2).p = s.p := rfl
@[simp] theorem pop_pc (s : State) : ((pop s).2).pc = s.pc := rfl
@[simp] theorem pop_mem (s : State) : ((pop s).2).mem = s.mem := rfl
@[simp] theorem pop_excycles (s : State) : ((pop s).2).excycles = s.excycles := rfl
@[simp] theorem pop_processorCycles (s : State) : ((pop s).2).processorCycles = s.processorCycles := rfl
@[simp] theorem pop_config (s : State) : ((pop s).2).config = s.config := rfl

@[simp] theorem pushWord_a (w : Word) (s : State) : (pushWord w s).a = s.a := rfl
@[simp] theorem pushWord_x (w : Word) (s : State) : (pushWord w s).x = s.x := rfl
@[simp] theorem pushWord_y (w : Word) (s : State) : (pushWord w s).y = s.y := rfl
@[simp] theorem pushWord_sp (w : Word) (s : State) : (pushWord w s).sp = s.sp - 1#8 - 1#8 := rfl
@[simp] theorem pushWord_p (w : Word) (s : State) : (pushWord w s).p = s.p := rfl
@[simp] theorem pushWord_pc (w : Word) (s : State) : (pushWord w s).pc = s.pc := rfl
@[simp] theorem pushWord_mem (w : Word) (s : State) : (pushWord w s).mem = Memory.write (Memory.write s.mem (stackAddr s.sp).toNat (hiByte w)) (stackAddr (s.sp - 1#8)).toNat (loByte w) := rfl
@[simp] theorem pushWord_excycles (w : Word) (s : State) : (pushWord w s).excycles = s.excycles := rfl
@[simp] theorem pushWord_processorCycles (w : Word) (s : State) : (pushWord w s).processorCycles = s.processorCycles := rfl
@[simp] theorem pushWord_config (w : Word) (s : State) : (pushWord w s).config = s.config := rfl

@[simp] theorem popWord_a (s : State) : ((popWord s).2).a = s.a := rfl
@[simp] theorem popWord_x (s : State) : ((popWord s).2).x = s.x := rfl
@[simp] theorem popWord_y (s : State) : ((popWord s).2).y = s.y := rfl
@[simp] theorem popWord_sp (s : State) : ((popWord s).2).sp = s.sp + 1#8 + 1#8 := rfl
@[simp] theorem popWord_p (s : State) : ((popWord s).2).p = s.p := rfl
@[simp] theorem popWord_pc (s : State) : ((popWord s).2).pc = s.pc := rfl
@[simp] theorem popWord_mem (s : State) : ((popWord s).2).mem = s.mem := rfl
@[simp] theorem popWord_excycles (s : State) : ((popWord s).2).excycles = s.excycles := rfl
@[simp] theorem popWord_processorCycles (s : State) : ((popWord s).2).processorCycles = s.processorCycles := rfl
@[simp] theorem popWord_config (s : State) : ((popWord s).2).config = s.config := rfl

@[simp] theorem takeTrap_a (vector : Word) (s : State) : (takeTrap vector s).a = s.a := rfl
@[simp] theorem takeTrap_x (vector : Word) (s : State) : (takeTrap vector s).x = s.x := rfl
@[simp] theorem takeTrap_y (vector : Word) (s : State) : (takeTrap vector s).y = s.y := rfl
@[simp] theorem takeTrap_sp (vector : Word) (s : State) : (takeTrap vector s).sp = s.sp - 1#8 - 1#8 - 1#8 := rfl
@[simp] theorem takeTrap_p (vector : Word) (s : State) : (takeTrap vector s).p = trapStatus s.p := rfl
@[simp] theorem takeTrap_mem (vector : Word) (s : State) : (takeTrap vector s).mem = Memory.write (pushWord s.pc s).mem (stackAddr (s.sp - 1#8 - 1#8)).toNat (forceBreakUnused s.p) := rfl
@[simp] theorem takeTrap_excycles (vector : Word) (s : State) : (takeTrap vector s).excycles = s.excycles := rfl
@[simp] theorem takeTrap_processorCycles (vector : Word) (s : State) : (takeTrap vector s).processorCycles = s.processorCycles := rfl
@[simp] theorem takeTrap_config (vector : Word) (s : State) : (takeTrap vector s).config = s.config := rfl

@[simp] theorem returnFromTrap_a (s : State) : (returnFromTrap s).a = s.a := rfl
@[simp] theorem returnFromTrap_x (s : State) : (returnFromTrap s).x = s.x := rfl
@[simp] theorem returnFromTrap_y (s : State) : (returnFromTrap s).y = s.y := rfl
@[simp] theorem returnFromTrap_sp (s : State) : (returnFromTrap s).sp = s.sp + 1#8 + 1#8 + 1#8 := rfl
@[simp] theorem returnFromTrap_p (s : State) : (returnFromTrap s).p = forceBreakUnused (pop s).1 := rfl
@[simp] theorem returnFromTrap_mem (s : State) : (returnFromTrap s).mem = s.mem := rfl
@[simp] theorem returnFromTrap_excycles (s : State) : (returnFromTrap s).excycles = s.excycles := rfl
@[simp] theorem returnFromTrap_processorCycles (s : State) : (returnFromTrap s).processorCycles = s.processorCycles := rfl
@[simp] theorem returnFromTrap_config (s : State) : (returnFromTrap s).config = s.config := rfl

@[simp] theorem advance_a (n : Nat) (s : State) : (advance n s).a = s.a := rfl
@[simp] theorem advance_x (n : Nat) (s : State) : (advance n s).x = s.x := rfl
@[simp] theorem advance_y (n : Nat) (s : State) : (advance n s).y = s.y := rfl
@[simp] theorem advance_sp (n : Nat) (s : State) : (advance n s).sp = s.sp := rfl
@[simp] theorem advance_p (n : Nat) (s : State) : (advance n s).p = s.p := rfl
@[simp] theorem advance_pc (n : Nat) (s : State) : (advance n s).pc = s.pc + BitVec.ofNat 16 n := rfl
@[simp] theorem advance_mem (n : Nat) (s : State) : (advance n s).mem = s.mem := rfl
@[simp] theorem advance_excycles (n : Nat) (s : State) : (advance n s).excycles = s.excycles := rfl
@[simp] theorem advance_processorCycles (n : Nat) (s : State) : (advance n s).processorCycles = s.processorCycles := rfl
@[simp] theorem advance_config (n : Nat) (s : State) : (advance n s).config = s.config := rfl

@[simp] theorem passOpcode_a (s : State) : (passOpcode s).a = s.a := rfl
@[simp] theorem passOpcode_x (s : State) : (passOpcode s).x = s.x := rfl
@[simp] theorem passOpcode_y (s : State) : (passOpcode s).y = s.y := rfl
@[simp] theorem passOpcode_sp (s : State) : (passOpcode s).sp = s.sp := rfl
@[simp] theorem passOpcode_p (s : State) : (passOpcode s).p = s.p := rfl
@[simp] theorem passOpcode_pc (s : State) : (passOpcode s).pc = s.pc + 1#16 := rfl
@[simp] theorem passOpcode_mem (s : State) : (passOpcode s).mem = s.mem := rfl
@[simp] theorem passOpcode_excycles (s : State) : (passOpcode s).excycles = s.excycles := rfl
@[simp] theorem passOpcode_processorCycles (s : State) : (passOpcode s).processorCycles = s.processorCycles := rfl
@[simp] theorem passOpcode_config (s : State) : (passOpcode s).config = s.config := rfl

@[simp] theorem loadA_a (v : Byte) (s : State) : (loadA v s).a = v := rfl
@[simp] theorem loadA_x (v : Byte) (s : State) : (loadA v s).x = s.x := rfl
@[simp] theorem loadA_y (v : Byte) (s : State) : (loadA v s).y = s.y := rfl
@[simp] theorem loadA_sp (v : Byte) (s : State) : (loadA v s).sp = s.sp := rfl
@[simp] theorem loadA_p (v : Byte) (s : State) : (loadA v s).p = flagsNZ v s.p := rfl
@[simp] theorem loadA_pc (v : Byte) (s : State) : (loadA v s).pc = s.pc := rfl
@[simp] theorem loadA_mem (v : Byte) (s : State) : (loadA v s).mem = s.mem := rfl
@[simp] theorem loadA_excycles (v : Byte) (s : State) : (loadA v s).excycles = s.excycles := rfl
@[simp] theorem loadA_processorCycles (v : Byte) (s : State) : (loadA v s).processorCycles = s.processorCycles := rfl
@[simp] theorem loadA_config (v : Byte) (s : State) : (loadA v s).config = s.config := rfl

@[simp] theorem loadX_a (v : Byte) (s : State) : (loadX v s).a = s.a := rfl
@[simp] theorem loadX_x (v : Byte) (s : State) : (loadX v s).x = v := rfl
@[simp] theorem loadX_y (v : Byte) (s : State) : (loadX v s).y = s.y := rfl
@[simp] theorem loadX_sp (v : Byte) (s : State) : (loadX v s).sp = s.sp := rfl
@[simp] theorem loadX_p (v : Byte) (s : State) : (loadX v s).p = flagsNZ v s.p := rfl
@[simp] theorem loadX_pc (v : Byte) (s : State) : (loadX v s).pc = s.pc := rfl
@[simp] theorem loadX_mem (v : Byte) (s : State) : (loadX v s).mem = s.mem := rfl
@[simp] theorem loadX_excycles (v : Byte) (s : State) : (loadX v s).excycles = s.excycles := rfl
@[simp] theorem loadX_processorCycles (v : Byte) (s : State) : (loadX v s).processorCycles = s.processorCycles := rfl
@[simp] theorem loadX_config (v : Byte) (s : State) : (loadX v s).config = s.config := rfl

@[simp] theorem loadY_a (v : Byte) (s : State) : (loadY v s).a = s.a := rfl
@[simp] theorem loadY_x (v : Byte) (s : State) : (loadY v s).x = s.x := rfl
@[simp] theorem loadY_y (v : Byte) (s : State) : (loadY v s).y = v := rfl
@[simp] theorem loadY_sp (v : Byte) (s : State) : (loadY v s).sp = s.sp := rfl
@[simp] theorem loadY_p (v : Byte) (s : State) : (loadY v s).p = flagsNZ v s.p := rfl
@[simp] theorem loadY_pc (v : Byte) (s : State) : (loadY v s).pc = s.pc := rfl
@[simp] theorem loadY_mem (v : Byte) (s : State) : (loadY v s).mem = s.mem := rfl
@[simp] theorem loadY_excycles (v : Byte) (s : State) : (loadY v s).excycles = s.excycles := rfl
@[simp] theorem loadY_processorCycles (v : Byte) (s : State) : (loadY v s).processorCycles = s.processorCycles := rfl
@[simp] theorem loadY_config (v : Byte) (s : State) : (loadY v s).config = s.config := rfl

@[simp] theorem applyAlu_a (r : AluResult) (s : State) : (applyAlu r s).a = r.acc := rfl
@[simp] theorem applyAlu_x (r : AluResult) (s : State) : (applyAlu r s).x = s.x := rfl
@[simp] theorem applyAlu_y (r : AluResult) (s : State) : (applyAlu r s).y = s.y := rfl
@[simp] theorem applyAlu_sp (r : AluResult) (s : State) : (applyAlu r s).sp = s.sp := rfl
@[simp] theorem applyAlu_p (r : AluResult) (s : State) : (applyAlu r s).p = flagsAlu r s.p := rfl
@[simp] theorem applyAlu_pc (r : AluResult) (s : State) : (applyAlu r s).pc = s.pc := rfl
@[simp] theorem applyAlu_mem (r : AluResult) (s : State) : (applyAlu r s).mem = s.mem := rfl
@[simp] theorem applyAlu_excycles (r : AluResult) (s : State) : (applyAlu r s).excycles = s.excycles := rfl
@[simp] theorem applyAlu_processorCycles (r : AluResult) (s : State) : (applyAlu r s).processorCycles = s.processorCycles := rfl
@[simp] theorem applyAlu_config (r : AluResult) (s : State) : (applyAlu r s).config = s.config := rfl

@[simp] theorem chargeMode_a (o : Operand) (s : State) : (chargeMode o s).a = s.a := rfl
@[simp] theorem chargeMode_x (o : Operand) (s : State) : (chargeMode o s).x = s.x := rfl
@[simp] theorem chargeMode_y (o : Operand) (s : State) : (chargeMode o s).y = s.y := rfl
@[simp] theorem chargeMode_sp (o : Operand) (s : State) : (chargeMode o s).sp = s.sp := rfl
@[simp] theorem chargeMode_p (o : Operand) (s : State) : (chargeMode o s).p = s.p := rfl
@[simp] theorem chargeMode_pc (o : Operand) (s : State) : (chargeMode o s).pc = s.pc := rfl
@[simp] theorem chargeMode_mem (o : Operand) (s : State) : (chargeMode o s).mem = s.mem := rfl
@[simp] theorem chargeMode_excycles (o : Operand) (s : State) : (chargeMode o s).excycles = s.excycles + resolveCycles o s := rfl
@[simp] theorem chargeMode_processorCycles (o : Operand) (s : State) : (chargeMode o s).processorCycles = s.processorCycles := rfl
@[simp] theorem chargeMode_config (o : Operand) (s : State) : (chargeMode o s).config = s.config := rfl

@[simp] theorem writeOp_x (d : Descriptor) (v : Byte) (s : State) : (writeOp d v s).x = s.x := by
  cases d <;> rfl
@[simp] theorem writeOp_y (d : Descriptor) (v : Byte) (s : State) : (writeOp d v s).y = s.y := by
  cases d <;> rfl
@[simp] theorem writeOp_sp (d : Descriptor) (v : Byte) (s : State) : (writeOp d v s).sp = s.sp := by
  cases d <;> rfl
@[simp] theorem writeOp_p (d : Descriptor) (v : Byte) (s : State) : (writeOp d v s).p = s.p := by
  cases d <;> rfl
@[simp] theorem writeOp_pc (d : Descriptor) (v : Byte) (s : State) : (writeOp d v s).pc = s.pc := by
  cases d <;> rfl
@[simp] theorem writeOp_excycles (d : Descriptor) (v : Byte) (s : State) : (writeOp d v s).excycles = s.excycles := by
  cases d <;> rfl
@[simp] theorem writeOp_processorCycles (d : Descriptor) (v : Byte) (s : State) : (writeOp d v s).processorCycles = s.processorCycles := by
  cases d <;> rfl
@[simp] theorem writeOp_config (d : Descriptor) (v : Byte) (s : State) : (writeOp d v s).config = s.config := by
  cases d <;> rfl

@[simp] theorem writeOp_acc (v : Byte) (s : State) : writeOp .acc v s = s.setA v := rfl
@[simp] theorem writeOp_mem_ea (ea : Word) (v : Byte) (s : State) : writeOp (.mem ea) v s = writeByte s ea v := rfl

@[simp] theorem branch_a (taken : Bool) (d : Byte) (s : State) : (branch taken d s).a = s.a := by
  cases taken <;> rfl
@[simp] theorem branch_x (taken : Bool) (d : Byte) (s : State) : (branch taken d s).x = s.x := by
  cases taken <;> rfl
@[simp] theorem branch_y (taken : Bool) (d : Byte) (s : State) : (branch taken d s).y = s.y := by
  cases taken <;> rfl
@[simp] theorem branch_sp (taken : Bool) (d : Byte) (s : State) : (branch taken d s).sp = s.sp := by
  cases taken <;> rfl
@[simp] theorem branch_p (taken : Bool) (d : Byte) (s : State) : (branch taken d s).p = s.p := by
  cases taken <;> rfl
@[simp] theorem branch_mem (taken : Bool) (d : Byte) (s : State) : (branch taken d s).mem = s.mem := by
  cases taken <;> rfl
@[simp] theorem branch_processorCycles (taken : Bool) (d : Byte) (s : State) : (branch taken d s).processorCycles = s.processorCycles := by
  cases taken <;> rfl
@[simp] theorem branch_config (taken : Bool) (d : Byte) (s : State) : (branch taken d s).config = s.config := by
  cases taken <;> rfl

theorem branch_not_taken (d : Byte) (s : State) : branch false d s = s.setPc (s.pc + 1#16) := rfl

theorem branch_taken (d : Byte) (s : State) :
    branch true d s = (s.addExcycles (branchCycles (s.pc + 1#16) (branchTarget (s.pc + 1#16) d))).setPc
      (branchTarget (s.pc + 1#16) d) := rfl

@[simp] theorem readForm_pc_of (o : Operand) (f : Byte → State → State) (s : State) :
    (readForm o f s).pc = (f (operandByte o s) (chargeMode o s)).pc + BitVec.ofNat 16 o.mode.operandBytes := rfl

theorem readForm_eq (o : Operand) (f : Byte → State → State) (s : State) :
    readForm o f s = advance o.mode.operandBytes (f (operandByte o s) (chargeMode o s)) := rfl

theorem storeForm_mem_eq (o : Operand) (ea : Word) (v : Byte) (s : State) (h : resolve o s = .mem ea) :
    storeForm o v s = advance o.mode.operandBytes (writeByte (chargeMode o s) ea v) := by
  simp [storeForm, h]

theorem modifyForm_mem_eq (o : Operand) (ea : Word) (r p : Byte) (s : State) (h : resolve o s = .mem ea) :
    modifyForm o r p s = advance o.mode.operandBytes ((writeByte (chargeMode o s) ea r).setP p) := by
  simp [modifyForm, h]

theorem modifyForm_acc_eq (r p : Byte) (s : State) :
    modifyForm .acc r p s = advance 0 (((chargeMode .acc s).setA r).setP p) := rfl

theorem operandByte_mem (o : Operand) (ea : Word) (s : State) (h : resolve o s = .mem ea) :
    operandByte o s = readByte s ea := by
  simp [operandByte, h, readOp]

end Sys2Proof.Machine
end

