-- ==== Sys2Proof/Laws/Memory.lean ====
section
/-! SUPPORT. The laws of memory: a read after a write, and that every operation keeps the canonical form. -/

namespace Sys2Proof.Machine

/-- A write leaves every other address alone (R44). -/
theorem Memory.read_write_other {m : Memory} {addr b : Nat} {v : Byte} (h : b ≠ addr) :
    Memory.read (Memory.write m addr v) b = Memory.read m b := by
  induction m with
  | nil =>
    unfold Memory.write
    split <;> simp [Memory.read, Ne.symm h]
  | cons cell rest ih =>
    obtain ⟨k, w⟩ := cell
    unfold Memory.write
    split_ifs with h1 h2 h3 h4
    · rfl
    · simp [Memory.read, Ne.symm h]
    · subst h3; simp [Memory.read, Ne.symm h]
    · subst h3; simp [Memory.read, Ne.symm h]
    · simp [Memory.read, ih]

/-- An address below every listed one reads as unlisted. -/
theorem Memory.read_below {m : Memory} {addr : Nat} (h : m.all (fun cell => decide (addr < cell.1)) = true) :
    Memory.read m addr = Memory.unlisted := by
  induction m with
  | nil => rfl
  | cons cell rest ih =>
    obtain ⟨k, w⟩ := cell
    simp only [List.all_cons, Bool.and_eq_true, decide_eq_true_eq] at h
    simp [Memory.read, Nat.ne_of_gt h.1, ih h.2]

/-- What the canonical form says of a list with a first cell. -/
theorem Memory.wf_cons {k : Nat} {v : Byte} {rest : Memory} :
    Memory.wf ((k, v) :: rest) = true ↔
      k < 0x10000 ∧ v ≠ Memory.unlisted ∧ rest.all (fun cell => decide (k < cell.1)) = true ∧ Memory.wf rest = true := by
  simp [Memory.wf, and_assoc]

/-- A cell bound carries over to a write above it. -/
theorem Memory.all_above_write {m : Memory} {k addr : Nat} {v : Byte} (hk : k < addr)
    (h : m.all (fun cell => decide (k < cell.1)) = true) :
    (Memory.write m addr v).all (fun cell => decide (k < cell.1)) = true := by
  induction m with
  | nil => unfold Memory.write; split <;> simp [hk]
  | cons cell rest ih =>
    obtain ⟨j, w⟩ := cell
    simp only [List.all_cons, Bool.and_eq_true, decide_eq_true_eq] at h
    have hrest := ih h.2
    unfold Memory.write
    split_ifs <;> (try simp only [List.all_cons, Bool.and_eq_true, decide_eq_true_eq]) <;> tauto

theorem Memory.all_lt_trans {m : Memory} {j k : Nat} (hj : j < k)
    (h : m.all (fun cell => decide (k < cell.1)) = true) : m.all (fun cell => decide (j < cell.1)) = true := by
  rw [List.all_eq_true] at h ⊢
  intro cell hc
  have := h cell hc
  simp only [decide_eq_true_eq] at this ⊢
  omega

/-- A write keeps the canonical form. -/
theorem Memory.wf_write {m : Memory} {addr : Nat} {v : Byte} (ha : addr < 0x10000) (h : Memory.wf m = true) :
    Memory.wf (Memory.write m addr v) = true := by
  induction m with
  | nil => unfold Memory.write; split <;> simp_all [Memory.wf]
  | cons cell rest ih =>
    obtain ⟨k, w⟩ := cell
    have hw := Memory.wf_cons.mp h
    unfold Memory.write
    split_ifs with h1 h2 h3 h4
    · exact h
    · refine Memory.wf_cons.mpr ⟨ha, h2, ?_, h⟩
      simp only [List.all_cons, Bool.and_eq_true, decide_eq_true_eq]
      exact ⟨h1, Memory.all_lt_trans h1 hw.2.2.1⟩
    · exact hw.2.2.2
    · subst h3; exact Memory.wf_cons.mpr ⟨ha, h4, hw.2.2⟩
    · exact Memory.wf_cons.mpr ⟨hw.1, hw.2.1, Memory.all_above_write (by omega) hw.2.2.1, ih hw.2.2.2⟩

/-- A read after a write to the same address gives the value written (R44, R48). -/
theorem Memory.read_write_same {m : Memory} {addr : Nat} {v : Byte} (h : Memory.wf m = true) :
    Memory.read (Memory.write m addr v) addr = v := by
  induction m with
  | nil => unfold Memory.write; split <;> simp_all [Memory.read]
  | cons cell rest ih =>
    obtain ⟨k, w⟩ := cell
    have hw := Memory.wf_cons.mp h
    unfold Memory.write
    split_ifs with h1 h2 h3 h4
    · subst h2
      refine Memory.read_below ?_
      simp only [List.all_cons, Bool.and_eq_true, decide_eq_true_eq]
      exact ⟨h1, Memory.all_lt_trans h1 hw.2.2.1⟩
    · simp [Memory.read]
    · subst h3; subst h4; exact Memory.read_below hw.2.2.1
    · simp [Memory.read]
    · simp [Memory.read, Ne.symm h3, ih hw.2.2.2]

/-! ### Bytes of the state -/

/-- A read depends on the memory alone. -/
theorem readByte_of_mem {s t : State} (h : t.mem = s.mem) (addr : Word) : readByte t addr = readByte s addr := by
  simp [readByte, h]

theorem readByte_writeByte_same {s : State} {addr : Word} {v : Byte} (h : Memory.wf s.mem = true) :
    readByte (writeByte s addr v) addr = v := Memory.read_write_same h

theorem readByte_writeByte_other {s : State} {addr b : Word} {v : Byte} (h : b ≠ addr) :
    readByte (writeByte s addr v) b = readByte s b :=
  Memory.read_write_other (fun hb => h (BitVec.eq_of_toNat_eq hb))

/-- A byte of a state whose memory is another's after one write to another address. -/
theorem readByte_of_write_other {s t : State} {addr b : Word} {v : Byte}
    (hm : t.mem = Memory.write s.mem addr.toNat v) (h : b ≠ addr) : readByte t b = readByte s b := by
  simp only [readByte, hm]
  exact Memory.read_write_other (fun hb => h (BitVec.eq_of_toNat_eq hb))

/-- The byte just written. -/
theorem readByte_of_write_same {s t : State} {addr : Word} {v : Byte}
    (hm : t.mem = Memory.write s.mem addr.toNat v) (h : Memory.wf s.mem = true) : readByte t addr = v := by
  simp only [readByte, hm]
  exact Memory.read_write_same h

theorem Memory.wf_write_word {m : Memory} {addr : Word} {v : Byte} (h : Memory.wf m = true) :
    Memory.wf (Memory.write m addr.toNat v) = true := Memory.wf_write addr.isLt h

theorem writeByte_wf {s : State} {addr : Word} {v : Byte} (h : Memory.wf s.mem = true) :
    Memory.wf (writeByte s addr v).mem = true := Memory.wf_write_word h

theorem push_wf {s : State} {v : Byte} (h : Memory.wf s.mem = true) : Memory.wf (push v s).mem = true :=
  Memory.wf_write_word h

theorem pushWord_wf {s : State} {w : Word} (h : Memory.wf s.mem = true) : Memory.wf (pushWord w s).mem = true :=
  Memory.wf_write_word (Memory.wf_write_word h)

theorem takeTrap_wf {s : State} {vector : Word} (h : Memory.wf s.mem = true) :
    Memory.wf (takeTrap vector s).mem = true := Memory.wf_write_word (pushWord_wf h)

theorem writeOp_wf {s : State} {d : Descriptor} {v : Byte} (h : Memory.wf s.mem = true) :
    Memory.wf (writeOp d v s).mem = true := by
  cases d with
  | acc => exact h
  | datum w => exact h
  | mem ea => exact Memory.wf_write_word h

theorem hostLoad_wf {cells : List (Word × Byte)} {s : State} (h : Memory.wf s.mem = true) :
    Memory.wf (hostLoad cells s).mem = true := by
  induction cells generalizing s with
  | nil => exact h
  | cons cell rest ih => exact ih (writeByte_wf h)

/-- Reset memory lists nothing, so it is canonical. -/
theorem reset_wf : Memory.wf State.reset.mem = true := rfl

end Sys2Proof.Machine
end

