-- ==== Sys2Proof/Laws/PerInstr.lean ====
section
/-! SUPPORT. Statements about every instruction as syntax, one lemma per constructor: the length of its encoding
(spec/30_encoding.md R60, R61). -/

namespace Sys2Proof.Laws.EncodedLength

/-- A well-formed instruction encodes to one opcode byte and the operand bytes of its mode. -/
def Statement (i : Instr) : Prop := i.wellFormed = true → (encode i).length = i.length

theorem lda (o : Operand) : Statement (.lda o) := by
  intro h; cases o <;> first | rfl | exact Bool.noConfusion h

theorem ldx (o : Operand) : Statement (.ldx o) := by
  intro h; cases o <;> first | rfl | exact Bool.noConfusion h

theorem ldy (o : Operand) : Statement (.ldy o) := by
  intro h; cases o <;> first | rfl | exact Bool.noConfusion h

theorem sta (o : Operand) : Statement (.sta o) := by
  intro h; cases o <;> first | rfl | exact Bool.noConfusion h

theorem stx (o : Operand) : Statement (.stx o) := by
  intro h; cases o <;> first | rfl | exact Bool.noConfusion h

theorem sty (o : Operand) : Statement (.sty o) := by
  intro h; cases o <;> first | rfl | exact Bool.noConfusion h

theorem stz (o : Operand) : Statement (.stz o) := by
  intro h; cases o <;> first | rfl | exact Bool.noConfusion h

theorem ora (o : Operand) : Statement (.ora o) := by
  intro h; cases o <;> first | rfl | exact Bool.noConfusion h

theorem and (o : Operand) : Statement (.and o) := by
  intro h; cases o <;> first | rfl | exact Bool.noConfusion h

theorem eor (o : Operand) : Statement (.eor o) := by
  intro h; cases o <;> first | rfl | exact Bool.noConfusion h

theorem asl (o : Operand) : Statement (.asl o) := by
  intro h; cases o <;> first | rfl | exact Bool.noConfusion h

theorem rol (o : Operand) : Statement (.rol o) := by
  intro h; cases o <;> first | rfl | exact Bool.noConfusion h

theorem lsr (o : Operand) : Statement (.lsr o) := by
  intro h; cases o <;> first | rfl | exact Bool.noConfusion h

theorem ror (o : Operand) : Statement (.ror o) := by
  intro h; cases o <;> first | rfl | exact Bool.noConfusion h

theorem inc (o : Operand) : Statement (.inc o) := by
  intro h; cases o <;> first | rfl | exact Bool.noConfusion h

theorem dec (o : Operand) : Statement (.dec o) := by
  intro h; cases o <;> first | rfl | exact Bool.noConfusion h

theorem inx : Statement .inx := fun _ => rfl

theorem iny : Statement .iny := fun _ => rfl

theorem dex : Statement .dex := fun _ => rfl

theorem dey : Statement .dey := fun _ => rfl

theorem cmp (o : Operand) : Statement (.cmp o) := by
  intro h; cases o <;> first | rfl | exact Bool.noConfusion h

theorem cpx (o : Operand) : Statement (.cpx o) := by
  intro h; cases o <;> first | rfl | exact Bool.noConfusion h

theorem cpy (o : Operand) : Statement (.cpy o) := by
  intro h; cases o <;> first | rfl | exact Bool.noConfusion h

theorem bit (o : Operand) : Statement (.bit o) := by
  intro h; cases o <;> first | rfl | exact Bool.noConfusion h

theorem bpl (d : Byte) : Statement (.bpl d) := fun _ => rfl

theorem bmi (d : Byte) : Statement (.bmi d) := fun _ => rfl

theorem bvc (d : Byte) : Statement (.bvc d) := fun _ => rfl

theorem bvs (d : Byte) : Statement (.bvs d) := fun _ => rfl

theorem bcc (d : Byte) : Statement (.bcc d) := fun _ => rfl

theorem bcs (d : Byte) : Statement (.bcs d) := fun _ => rfl

theorem bne (d : Byte) : Statement (.bne d) := fun _ => rfl

theorem beq (d : Byte) : Statement (.beq d) := fun _ => rfl

theorem clc : Statement .clc := fun _ => rfl

theorem sec : Statement .sec := fun _ => rfl

theorem cli : Statement .cli := fun _ => rfl

theorem sei : Statement .sei := fun _ => rfl

theorem clv : Statement .clv := fun _ => rfl

theorem cld : Statement .cld := fun _ => rfl

theorem sed : Statement .sed := fun _ => rfl

theorem adc (o : Operand) : Statement (.adc o) := by
  intro h; cases o <;> first | rfl | exact Bool.noConfusion h

theorem sbc (o : Operand) : Statement (.sbc o) := by
  intro h; cases o <;> first | rfl | exact Bool.noConfusion h

theorem brk : Statement .brk := fun _ => rfl

theorem rti : Statement .rti := fun _ => rfl

theorem jsr (target : Word) : Statement (.jsr target) := fun _ => rfl

theorem rts : Statement .rts := fun _ => rfl

theorem jmpAbs (target : Word) : Statement (.jmpAbs target) := fun _ => rfl

theorem jmpInd (ptr : Word) : Statement (.jmpInd ptr) := fun _ => rfl

theorem txa : Statement .txa := fun _ => rfl

theorem tax : Statement .tax := fun _ => rfl

theorem tya : Statement .tya := fun _ => rfl

theorem tay : Statement .tay := fun _ => rfl

theorem txs : Statement .txs := fun _ => rfl

theorem tsx : Statement .tsx := fun _ => rfl

theorem pha : Statement .pha := fun _ => rfl

theorem pla : Statement .pla := fun _ => rfl

theorem php : Statement .php := fun _ => rfl

theorem plp : Statement .plp := fun _ => rfl

theorem nop : Statement .nop := fun _ => rfl

theorem unk (opcode : Byte) : Statement (.unk opcode) := by
  intro h
  have hop : unknownOpcodes.contains opcode = true := h
  simp only [encode, Instr.opcode, hop, if_true]
  rfl

end Sys2Proof.Laws.EncodedLength
end

