-- ==== Sys2Proof/Laws/Step.lean ====
section
/-! SUPPORT. What an instruction can do to memory, said once, and the frames of states with the same fields. -/

namespace Sys2Proof.Machine

/-- A list of byte writes done to a memory, the first of the list first. -/
def writeAll (m : Memory) (writes : List (Word × Byte)) : Memory :=
  writes.foldl (fun acc w => Memory.write acc w.1.toNat w.2) m

theorem writeAll_wf {m : Memory} (writes : List (Word × Byte)) (h : Memory.wf m = true) :
    Memory.wf (writeAll m writes) = true := by
  induction writes generalizing m with
  | nil => exact h
  | cons w rest ih => exact ih (Memory.wf_write_word h)

theorem writeAll_read_other {m : Memory} {writes : List (Word × Byte)} {addr : Word}
    (h : ∀ w ∈ writes, w.1 ≠ addr) : Memory.read (writeAll m writes) addr.toNat = Memory.read m addr.toNat := by
  induction writes generalizing m with
  | nil => rfl
  | cons w rest ih =>
    have hne : addr.toNat ≠ w.1.toNat := fun he => h w (by simp) (BitVec.eq_of_toNat_eq he).symm
    simp only [writeAll, List.foldl_cons]
    exact (ih fun u hu => h u (by simp [hu])).trans (Memory.read_write_other hne)

/-- Writing an operand writes memory at most once. -/
theorem writeOp_writes (d : Descriptor) (v : Byte) (s : State) :
    ∃ writes, writes.length ≤ 1 ∧ (writeOp d v s).mem = writeAll s.mem writes := by
  cases d with
  | acc => exact ⟨[], by simp, rfl⟩
  | datum w => exact ⟨[], by simp, rfl⟩
  | mem ea => exact ⟨[(ea, v)], by simp, rfl⟩

/-- When an instruction completes, memory is as before but for at most three byte writes (R48). -/
theorem exec_writes {i : Instr} {s t : State} (h : exec i s = .next t) :
    ∃ writes, writes.length ≤ 3 ∧ t.mem = writeAll s.mem writes := by
  have none : t.mem = s.mem → ∃ writes, writes.length ≤ 3 ∧ t.mem = writeAll s.mem writes :=
    fun hm => ⟨[], by simp, hm⟩
  have one : (∃ d v u, u.mem = s.mem ∧ t.mem = (writeOp d v u).mem) →
      ∃ writes, writes.length ≤ 3 ∧ t.mem = writeAll s.mem writes := by
    rintro ⟨d, v, u, hu, hm⟩
    obtain ⟨writes, hl, hw⟩ := writeOp_writes d v u
    exact ⟨writes, by omega, by rw [hm, hw, hu]⟩
  cases i with
  | sta o => cases h; exact one ⟨_, _, chargeMode o s, rfl, rfl⟩
  | stx o => cases h; exact one ⟨_, _, chargeMode o s, rfl, rfl⟩
  | sty o => cases h; exact one ⟨_, _, chargeMode o s, rfl, rfl⟩
  | stz o => cases h; exact one ⟨_, _, chargeMode o s, rfl, rfl⟩
  | asl o => cases h; exact one ⟨_, _, chargeMode o s, rfl, rfl⟩
  | rol o => cases h; exact one ⟨_, _, chargeMode o s, rfl, rfl⟩
  | lsr o => cases h; exact one ⟨_, _, chargeMode o s, rfl, rfl⟩
  | ror o => cases h; exact one ⟨_, _, chargeMode o s, rfl, rfl⟩
  | inc o => cases h; exact one ⟨_, _, chargeMode o s, rfl, rfl⟩
  | dec o => cases h; exact one ⟨_, _, chargeMode o s, rfl, rfl⟩
  | bpl d => cases h; exact none (branch_mem ..)
  | bmi d => cases h; exact none (branch_mem ..)
  | bvc d => cases h; exact none (branch_mem ..)
  | bvs d => cases h; exact none (branch_mem ..)
  | bcc d => cases h; exact none (branch_mem ..)
  | bcs d => cases h; exact none (branch_mem ..)
  | bne d => cases h; exact none (branch_mem ..)
  | beq d => cases h; exact none (branch_mem ..)
  | brk => cases h; exact ⟨[(_, _), (_, _), (_, _)], by simp, rfl⟩
  | jsr w => cases h; exact ⟨[(_, _), (_, _)], by simp, rfl⟩
  | pha => cases h; exact ⟨[(_, _)], by simp, rfl⟩
  | php => cases h; exact ⟨[(_, _)], by simp, rfl⟩
  | unk op =>
    simp only [exec, execUnk] at h
    split at h
    · cases h; exact none rfl
    · cases h
  | _ => cases h; exact none rfl

/-- An instruction that completes keeps the canonical form of memory. -/
theorem exec_wf {i : Instr} {s t : State} (h : exec i s = .next t) (hw : Memory.wf s.mem = true) :
    Memory.wf t.mem = true := by
  obtain ⟨writes, -, hm⟩ := exec_writes h
  rw [hm]
  exact writeAll_wf writes hw

/-- The first of `k + 1` steps of a machine, when it completes. -/
theorem run_succ_of_step (M : Host.Core) {s u : M.State} (k : Nat) (h : M.step s = .next u) :
    M.run (k + 1) s = M.run k u := by
  simp only [Host.Core.run, h]

/-! ### Frames -/

/-- A frame from equations of the fields. -/
theorem OnlyTouches.intro {regs : List Reg} {flags : List Flag} {cells : List Word} {s t : State}
    (ha : .a ∈ regs ∨ t.a = s.a) (hx : .x ∈ regs ∨ t.x = s.x) (hy : .y ∈ regs ∨ t.y = s.y)
    (hsp : .sp ∈ regs ∨ t.sp = s.sp) (hf : ∀ f, f ∉ flags → getFlag t.p f = getFlag s.p f)
    (hm : ∀ addr, addr ∉ cells → readByte t addr = readByte s addr)
    (hc : t.processorCycles = s.processorCycles) (hg : t.config = s.config) :
    OnlyTouches regs flags cells s t := by
  refine ⟨fun r hr => ?_, hf, hm, hc, hg⟩
  cases r with
  | a => exact ha.resolve_left hr
  | x => exact hx.resolve_left hr
  | y => exact hy.resolve_left hr
  | sp => exact hsp.resolve_left hr

/-- Memory after byte writes reads as before outside the written addresses. -/
theorem readByte_outside_writes {s t : State} {writes : List (Word × Byte)} (hm : t.mem = writeAll s.mem writes)
    {addr : Word} (h : addr ∉ writes.map Prod.fst) : readByte t addr = readByte s addr := by
  simp only [readByte, hm]
  exact writeAll_read_other fun w hw he => h (List.mem_map.mpr ⟨w, hw, he⟩)

/-- The three stack addresses of a trap are different. -/
theorem stackAddr_injective {p q : Byte} (h : stackAddr p = stackAddr q) : p = q := by
  have := congrArg BitVec.toNat h
  simp only [stackAddr, zext, BitVec.toNat_add, BitVec.toNat_ofNat, BitVec.toNat_setWidth] at this
  have hp := p.isLt
  have hq := q.isLt
  exact BitVec.eq_of_toNat_eq (by omega)

/-- Every stack address is in page one (R24). -/
theorem stackAddr_toNat (p : Byte) : (stackAddr p).toNat = 0x100 + p.toNat := by
  have hp := p.isLt
  simp only [stackAddr, zext, BitVec.toNat_add, BitVec.toNat_ofNat, BitVec.toNat_setWidth]
  omega

/-- Both arms of R93 add the signed displacement. -/
theorem branchTarget_eq (next : Word) (d : Byte) : branchTarget next d = next + d.signExtend 16 := by
  have h : ∀ e : Byte, (if e.toNat < 0x80 then zext e else (0 : Word) - zext (e ^^^ 0xFF#8) - 1#16) = e.signExtend 16 := by
    decide
  rw [← h d]
  unfold branchTarget
  split <;> ring

end Sys2Proof.Machine
end

