-- ==== Sys2Proof/Laws/Stack.lean ====
section
/-! SUPPORT. The laws of the stack and of the trap: what a push, a word push, a trap, a pop and a return can do, said
once, so that no later proof unfolds them. -/

namespace Sys2Proof.Machine

/-! ### Stack addresses -/

theorem stackBelow_eq (s : State) {k : Nat} (hk : k ≤ 256) : stackBelow s k = stackAddr (s.sp - BitVec.ofNat 8 k) := by
  apply BitVec.eq_of_toNat_eq
  have := s.sp.isLt
  rw [stackAddr_toNat]
  simp only [stackBelow, BitVec.toNat_sub, BitVec.toNat_ofNat]
  omega

theorem stackAbove_eq (s : State) (k : Nat) : stackAbove s k = stackAddr (s.sp + BitVec.ofNat 8 k) := by
  apply BitVec.eq_of_toNat_eq
  have := s.sp.isLt
  rw [stackAddr_toNat]
  simp only [stackAbove, BitVec.toNat_add, BitVec.toNat_ofNat]
  omega

theorem stackBelow_zero (s : State) : stackBelow s 0 = stackAddr s.sp := by
  rw [stackBelow_eq s (by omega)]
  simp

theorem stackBelow_one (s : State) : stackBelow s 1 = stackAddr (s.sp - 1#8) := stackBelow_eq s (by omega)

theorem stackBelow_two (s : State) : stackBelow s 2 = stackAddr (s.sp - 1#8 - 1#8) := by
  rw [stackBelow_eq s (by omega), BitVec.sub_sub]
  rfl

/-- Two stack addresses that are fewer than 256 apart differ. -/
theorem stackAddr_sub_ne {p k : Byte} (h : k ≠ 0#8) : stackAddr (p - k) ≠ stackAddr p := by
  intro he
  have h1 := stackAddr_injective he
  have h2 := BitVec.sub_add_cancel p k
  rw [h1] at h2
  exact h ((BitVec.add_right_inj p).mp (by simpa using h2))

/-- An address outside page one is no stack address. -/
theorem ne_stackAddr {w : Word} (h : w.toNat < 0x100 ∨ 0x200 ≤ w.toNat) (p : Byte) : w ≠ stackAddr p := by
  rintro rfl
  have := p.isLt
  rw [stackAddr_toNat] at h
  omega

/-! ### Bytes after a push, a word push and a trap (R180, R182, R184) -/

theorem readByte_push {s : State} (v : Byte) (h : Memory.wf s.mem = true) : readByte (push v s) (stackAddr s.sp) = v :=
  readByte_of_write_same (s := s) rfl h

theorem readByte_push_other {s : State} (v : Byte) {addr : Word} (h : addr ≠ stackAddr s.sp) :
    readByte (push v s) addr = readByte s addr :=
  readByte_of_write_other (s := s) rfl h

theorem readByte_pushWord_high {s : State} (w : Word) (h : Memory.wf s.mem = true) :
    readByte (pushWord w s) (stackAddr s.sp) = hiByte w := by
  rw [pushWord, readByte_push_other _ (stackAddr_sub_ne (by decide)).symm]
  exact readByte_push _ h

theorem readByte_pushWord_low {s : State} (w : Word) (h : Memory.wf s.mem = true) :
    readByte (pushWord w s) (stackAddr (s.sp - 1#8)) = loByte w :=
  readByte_push (s := push (hiByte w) s) _ (push_wf h)

theorem readByte_pushWord_other {s : State} (w : Word) {addr : Word} (h0 : addr ≠ stackAddr s.sp)
    (h1 : addr ≠ stackAddr (s.sp - 1#8)) : readByte (pushWord w s) addr = readByte s addr := by
  rw [pushWord, readByte_push_other _ h1, readByte_push_other _ h0]

/-- The bytes of a state whose memory is that of a trap: outside the three pushed cells as before. -/
theorem readByte_of_trap_other {s t : State} {vector addr : Word} (hm : t.mem = (takeTrap vector s).mem)
    (h0 : addr ≠ stackAddr s.sp) (h1 : addr ≠ stackAddr (s.sp - 1#8)) (h2 : addr ≠ stackAddr (s.sp - 1#8 - 1#8)) :
    readByte t addr = readByte s addr := by
  rw [readByte_of_write_other (s := pushWord s.pc s) hm h2, readByte_pushWord_other _ h0 h1]

theorem readByte_trap_status {s : State} (vector : Word) (h : Memory.wf s.mem = true) :
    readByte (takeTrap vector s) (stackAddr (s.sp - 1#8 - 1#8)) = forceBreakUnused s.p :=
  readByte_of_write_same (s := pushWord s.pc s) rfl (pushWord_wf h)

theorem readByte_trap_high {s : State} (vector : Word) (h : Memory.wf s.mem = true) :
    readByte (takeTrap vector s) (stackAddr s.sp) = hiByte s.pc := by
  have hne : stackAddr s.sp ≠ stackAddr (s.sp - 1#8 - 1#8) := by
    rw [BitVec.sub_sub]
    exact (stackAddr_sub_ne (by decide)).symm
  rw [readByte_of_write_other (s := pushWord s.pc s) rfl hne]
  exact readByte_pushWord_high _ h

theorem readByte_trap_low {s : State} (vector : Word) (h : Memory.wf s.mem = true) :
    readByte (takeTrap vector s) (stackAddr (s.sp - 1#8)) = loByte s.pc := by
  rw [readByte_of_write_other (s := pushWord s.pc s) rfl (stackAddr_sub_ne (by decide)).symm]
  exact readByte_pushWord_low _ h

/-- The vector lies outside page one, so the trap goes to the word it held before the pushes (R184). -/
theorem takeTrap_pc_toNat (s : State) :
    (takeTrap irqVector s).pc.toNat = (readByte s 0xFFFE#16).toNat + 256 * (readByte s 0xFFFF#16).toNat := by
  have h : (takeTrap irqVector s).pc = readWord (takeTrap irqVector s) irqVector := rfl
  rw [h, readWord, leWord_toNat,
    readByte_of_trap_other rfl (ne_stackAddr (.inr (by decide)) _) (ne_stackAddr (.inr (by decide)) _)
      (ne_stackAddr (.inr (by decide)) _),
    readByte_of_trap_other rfl (ne_stackAddr (.inr (by decide)) _) (ne_stackAddr (.inr (by decide)) _)
      (ne_stackAddr (.inr (by decide)) _)]
  rfl

/-! ### Pops and the return from the trap (R181, R183, R185) -/

theorem pop_fst (s : State) : (pop s).1 = readByte s (stackAddr (s.sp + 1#8)) := rfl

theorem popWord_fst (s : State) :
    (popWord s).1 = leWord (readByte s (stackAddr (s.sp + 1#8))) (readByte s (stackAddr (s.sp + 1#8 + 1#8))) := rfl

theorem returnFromTrap_pc (s : State) :
    (returnFromTrap s).pc = leWord (readByte s (stackAddr (s.sp + 1#8 + 1#8)))
      (readByte s (stackAddr (s.sp + 1#8 + 1#8 + 1#8))) := rfl

end Sys2Proof.Machine
end

