-- ==== Sys2Proof/Tests/Slice0.lean ====
section
/-! SUPPORT. The model's own tests. Expected values are those of spec/95_test_vectors.md, computed there from the
rules and not by this model (`VA1` to `VH22` name its vectors), and the cells of R63's opcode map. Then, for every
statement with hypotheses, a state and operands that meet them. -/

namespace Sys2Proof.Tests

open Sys2Proof Sys2Proof.Machine

/-! ### Helpers -/

/-- The start state of a vector: reset, then `PC`, the instruction's bytes at `PC`, and further cells. -/
def start (pc : Word) (code : List Byte) (cells : List (Word × Byte)) : State :=
  hostLoad (((List.range code.length).map fun k => pc + BitVec.ofNat 16 k).zip code ++ cells)
    (State.reset.setPc pc)

/-- The same state with `ADDCYCLES = 0`. -/
def uncharged (s : State) : State := { s with config := { s.config with addCycles := false } }

/-- The same state with `UNKNOWN_POLICY = fault`. -/
def strict (s : State) : State := { s with config := { s.config with unknownPolicy := .fault } }

/-- What a test looks at in the next state; nothing after a fault or a refusal. -/
def seen {α : Type} (look : State → α) (o : Host.Outcome State Fault Refusal) : Option α :=
  match o with
  | .next t => some (look t)
  | .fault _ | .refused _ => none

/-! ### Well-formedness: each check refuses a term that R63's table has no cell for -/

theorem test_wf_no_accumulator_read : (Instr.lda .acc).wellFormed = false := by decide
theorem test_wf_read_has_no_zpy : (Instr.ora (.zpy 0x10#8)).wellFormed = false := by decide
theorem test_wf_ldx_has_no_zpx : (Instr.ldx (.zpx 0x10#8)).wellFormed = false := by decide
theorem test_wf_ldy_has_no_absy : (Instr.ldy (.absy 0x1234#16)).wellFormed = false := by decide
theorem test_wf_sta_has_no_immediate : (Instr.sta (.imm 0x10#8)).wellFormed = false := by decide
theorem test_wf_stx_has_no_zpx : (Instr.stx (.zpx 0x10#8)).wellFormed = false := by decide
theorem test_wf_sty_has_no_zpy : (Instr.sty (.zpy 0x10#8)).wellFormed = false := by decide
theorem test_wf_stz_has_no_indirect : (Instr.stz (.zpi 0x10#8)).wellFormed = false := by decide
theorem test_wf_asl_has_no_immediate : (Instr.asl (.imm 0x10#8)).wellFormed = false := by decide
theorem test_wf_inc_has_no_absy : (Instr.inc (.absy 0x1234#16)).wellFormed = false := by decide
theorem test_wf_cpx_has_no_zpx : (Instr.cpx (.zpx 0x10#8)).wellFormed = false := by decide
theorem test_wf_bit_has_no_immediate : (Instr.bit (.imm 0x10#8)).wellFormed = false := by decide
theorem test_wf_brk_byte_is_not_unknown : (Instr.unk 0x00#8).wellFormed = false := by decide
/-- A term with no cell has no encoding. -/
theorem test_wf_no_encoding : encode (.stx (.zpx 0x10#8)) = [] := by decide

/-! ### Decoding: bytes written out from R63's map, every constructor; a two-byte operand is low byte first (R62) -/

theorem test_decode_loads :
    decode [0xA1#8, 0x20#8] = .instr (.lda (.indx 0x20#8)) [] ∧
    decode [0xBE#8, 0x34#8, 0x12#8] = .instr (.ldx (.absy 0x1234#16)) [] ∧
    decode [0xB4#8, 0x10#8] = .instr (.ldy (.zpx 0x10#8)) [] := by decide
theorem test_decode_stores :
    decode [0x91#8, 0x20#8] = .instr (.sta (.indy 0x20#8)) [] ∧
    decode [0x96#8, 0x80#8] = .instr (.stx (.zpy 0x80#8)) [] ∧
    decode [0x8C#8, 0x34#8, 0x12#8] = .instr (.sty (.abs 0x1234#16)) [] ∧
    decode [0x9E#8, 0xFF#8, 0x12#8] = .instr (.stz (.absx 0x12FF#16)) [] := by decide
theorem test_decode_logic :
    decode [0x19#8, 0x34#8, 0x12#8] = .instr (.ora (.absy 0x1234#16)) [] ∧
    decode [0x29#8, 0x55#8] = .instr (.and (.imm 0x55#8)) [] ∧
    decode [0x52#8, 0x20#8] = .instr (.eor (.zpi 0x20#8)) [] := by decide
theorem test_decode_shifts :
    decode [0x0A#8] = .instr (.asl .acc) [] ∧
    decode [0x36#8, 0x10#8] = .instr (.rol (.zpx 0x10#8)) [] ∧
    decode [0x4E#8, 0x34#8, 0x12#8] = .instr (.lsr (.abs 0x1234#16)) [] ∧
    decode [0x7E#8, 0xFF#8, 0x12#8] = .instr (.ror (.absx 0x12FF#16)) [] := by decide
theorem test_decode_steps_and_compares :
    decode [0x1A#8] = .instr (.inc .acc) [] ∧ decode [0xC6#8, 0x10#8] = .instr (.dec (.zp 0x10#8)) [] ∧
    decode [0xE8#8] = .instr .inx [] ∧ decode [0xC8#8] = .instr .iny [] ∧
    decode [0xCA#8] = .instr .dex [] ∧ decode [0x88#8] = .instr .dey [] ∧
    decode [0xD1#8, 0x20#8] = .instr (.cmp (.indy 0x20#8)) [] ∧
    decode [0xE4#8, 0x10#8] = .instr (.cpx (.zp 0x10#8)) [] ∧
    decode [0xC0#8, 0x10#8] = .instr (.cpy (.imm 0x10#8)) [] ∧
    decode [0x2C#8, 0x34#8, 0x12#8] = .instr (.bit (.abs 0x1234#16)) [] := by decide
theorem test_decode_branches :
    decode [0x10#8, 0x05#8] = .instr (.bpl 0x05#8) [] ∧ decode [0x30#8, 0x05#8] = .instr (.bmi 0x05#8) [] ∧
    decode [0x50#8, 0x05#8] = .instr (.bvc 0x05#8) [] ∧ decode [0x70#8, 0x05#8] = .instr (.bvs 0x05#8) [] ∧
    decode [0x90#8, 0x05#8] = .instr (.bcc 0x05#8) [] ∧ decode [0xB0#8, 0x05#8] = .instr (.bcs 0x05#8) [] ∧
    decode [0xD0#8, 0x05#8] = .instr (.bne 0x05#8) [] ∧ decode [0xF0#8, 0x05#8] = .instr (.beq 0x05#8) [] := by decide
theorem test_decode_flags :
    decode [0x18#8] = .instr .clc [] ∧ decode [0x38#8] = .instr .sec [] ∧ decode [0x58#8] = .instr .cli [] ∧
    decode [0x78#8] = .instr .sei [] ∧ decode [0xB8#8] = .instr .clv [] ∧ decode [0xD8#8] = .instr .cld [] ∧
    decode [0xF8#8] = .instr .sed [] := by decide
theorem test_decode_arithmetic :
    decode [0x75#8, 0x10#8] = .instr (.adc (.zpx 0x10#8)) [] ∧
    decode [0xFD#8, 0x34#8, 0x12#8] = .instr (.sbc (.absx 0x1234#16)) [] := by decide
theorem test_decode_control :
    decode [0x00#8, 0xFF#8] = .instr .brk [0xFF#8] ∧ decode [0x40#8] = .instr .rti [] ∧
    decode [0x20#8, 0x00#8, 0x30#8] = .instr (.jsr 0x3000#16) [] ∧ decode [0x60#8] = .instr .rts [] ∧
    decode [0x4C#8, 0x34#8, 0x12#8] = .instr (.jmpAbs 0x1234#16) [] ∧
    decode [0x6C#8, 0xFF#8, 0x10#8] = .instr (.jmpInd 0x10FF#16) [] := by decide
theorem test_decode_transfers :
    decode [0x8A#8] = .instr .txa [] ∧ decode [0xAA#8] = .instr .tax [] ∧ decode [0x98#8] = .instr .tya [] ∧
    decode [0xA8#8] = .instr .tay [] ∧ decode [0x9A#8] = .instr .txs [] ∧ decode [0xBA#8] = .instr .tsx [] := by decide
theorem test_decode_stack :
    decode [0x48#8] = .instr .pha [] ∧ decode [0x68#8] = .instr .pla [] ∧ decode [0x08#8] = .instr .php [] ∧
    decode [0x28#8] = .instr .plp [] ∧ decode [0xEA#8] = .instr .nop [] := by decide
/-- R65: unknown bytes, which other parts of the family give a meaning. -/
theorem test_decode_unknown :
    decode [0xDB#8, 0xE8#8] = .instr (.unk 0xDB#8) [0xE8#8] ∧ decode [0x80#8, 0x10#8] = .instr (.unk 0x80#8) [0x10#8] ∧
    decode [0xFF#8] = .instr (.unk 0xFF#8) [] := by decide
theorem test_decode_rejects_by_name :
    decode [] = .reject .noOpcode ∧ decode [0xAD#8, 0x34#8] = .reject (.missingOperand 0xAD#8) := by decide
/-- A table word: bit 0 is the least significant bit of the first byte; the bits above `nbits` are 0. -/
theorem test_decode_table_word :
    decodeTableWord 24 0x1234BD = some (.lda (.absx 0x1234#16)) ∧ decodeTableWord 8 0x34EA = some .nop ∧
    decodeTableWord 8 0x20 = some (.jsr 0x0000#16) ∧ decodeTableWord 0 0xEA = none := by decide
theorem test_placed_word_is_the_next_instruction :
    fetchInstr (State.reset.withFetchWord 24 0x1234BD) = .lda (.absx 0x1234#16) := by decide

/-! ### One step, from the vectors of spec/95_test_vectors.md -/

/-- VA12: LDA $FFFF,X (wraps at 64 KB). -/
theorem test_lda_VA12 :
    seen (fun t => (t.a, t.p, t.pc, t.excycles))
      (step (start 0x0200#16 [0xBD#8, 0xFF#8, 0xFF#8] [(0x0001#16, 0x03#8)] |>.setX 0x02#8)) =
      some (0x03#8, 0x30#8, 0x0203#16, 1) := by decide

/-- VA17: LDA ($FF,X) (pointer at 0x00FF: high byte from 0x0000). -/
theorem test_lda_VA17 :
    seen (fun t => (t.a, t.p, t.pc, t.excycles))
      (step (start 0x0200#16 [0xA1#8, 0xFF#8] [(0x00FF#16, 0x40#8), (0x0000#16, 0x32#8), (0x0100#16, 0x99#8), (0x3240#16, 0x07#8), (0x9940#16, 0xEE#8)])) =
      some (0x07#8, 0x30#8, 0x0202#16, 0) := by decide

/-- VA6: LDX $80,Y. -/
theorem test_ldx_VA6 :
    seen (fun t => (t.x, t.p, t.pc))
      (step (start 0x0200#16 [0xB6#8, 0x80#8] [(0x0010#16, 0x55#8), (0x0110#16, 0x66#8)] |>.setY 0x90#8)) =
      some (0x55#8, 0x30#8, 0x0202#16) := by decide

/-- VB4: LDX $1234,Y. -/
theorem test_ldx_VB4 :
    seen (fun t => (t.x, t.p, t.pc))
      (step (start 0x0200#16 [0xBE#8, 0x34#8, 0x12#8] [(0x1235#16, 0x00#8)] |>.setY 0x01#8)) =
      some (0x00#8, 0x32#8, 0x0203#16) := by decide

/-- VB5: LDY #$01. -/
theorem test_ldy_VB5 :
    seen (fun t => (t.y, t.p, t.pc))
      (step (start 0x0200#16 [0xA0#8, 0x01#8] [] |>.setP 0xB2#8)) =
      some (0x01#8, 0x30#8, 0x0202#16) := by decide

/-- VB6: LDY $10,X. -/
theorem test_ldy_VB6 :
    seen (fun t => (t.y, t.p, t.pc))
      (step (start 0x0200#16 [0xB4#8, 0x10#8] [(0x0015#16, 0x90#8)] |>.setX 0x05#8)) =
      some (0x90#8, 0xB0#8, 0x0202#16) := by decide

/-- VA14: STA $12FF,X (a store is charged too). -/
theorem test_sta_VA14 :
    seen (fun t => (readByte t 0x1300#16, t.p, t.pc, t.excycles))
      (step (start 0x0200#16 [0x9D#8, 0xFF#8, 0x12#8] [] |>.setA 0xAB#8 |>.setX 0x01#8)) =
      some (0xAB#8, 0x30#8, 0x0203#16, 1) := by decide

/-- VB8: STA ($20),Y. -/
theorem test_sta_VB8 :
    seen (fun t => (readByte t 0x4003#16, t.p, t.pc, t.excycles))
      (step (start 0x0200#16 [0x91#8, 0x20#8] [(0x0020#16, 0x00#8), (0x0021#16, 0x40#8)] |>.setA 0x5A#8 |>.setY 0x03#8)) =
      some (0x5A#8, 0x30#8, 0x0202#16, 0) := by decide

/-- VB13: STX $1234. -/
theorem test_stx_VB13 :
    seen (fun t => (readByte t 0x1234#16, t.p, t.pc))
      (step (start 0x0200#16 [0x8E#8, 0x34#8, 0x12#8] [] |>.setX 0x77#8)) =
      some (0x77#8, 0x30#8, 0x0203#16) := by decide

/-- VB14: STY $F0,X. -/
theorem test_sty_VB14 :
    seen (fun t => (readByte t 0x0010#16, t.p, t.pc))
      (step (start 0x0200#16 [0x94#8, 0xF0#8] [] |>.setX 0x20#8 |>.setY 0x66#8)) =
      some (0x66#8, 0x30#8, 0x0202#16) := by decide

/-- VB16: STZ $10,X. -/
theorem test_stz_VB16 :
    seen (fun t => (readByte t 0x0011#16, t.p, t.pc, t.excycles))
      (step (start 0x0200#16 [0x74#8, 0x10#8] [(0x0011#16, 0xAA#8)] |>.setX 0x01#8)) =
      some (0x00#8, 0x30#8, 0x0202#16, 0) := by decide

/-- VB17: STZ $12FF,X. -/
theorem test_stz_VB17 :
    seen (fun t => (readByte t 0x1300#16, t.p, t.pc, t.excycles))
      (step (start 0x0200#16 [0x9E#8, 0xFF#8, 0x12#8] [(0x1300#16, 0xAA#8)] |>.setX 0x01#8)) =
      some (0x00#8, 0x30#8, 0x0203#16, 1) := by decide

/-- VC1: ORA #$00. -/
theorem test_ora_VC1 :
    seen (fun t => (t.a, t.p, t.pc))
      (step (start 0x0200#16 [0x09#8, 0x00#8] [] |>.setA 0x00#8 |>.setP 0xB1#8)) =
      some (0x00#8, 0x33#8, 0x0202#16) := by decide

/-- VC2: ORA $10. -/
theorem test_ora_VC2 :
    seen (fun t => (t.a, t.p, t.pc))
      (step (start 0x0200#16 [0x05#8, 0x10#8] [(0x0010#16, 0x80#8)] |>.setA 0x01#8)) =
      some (0x81#8, 0xB0#8, 0x0202#16) := by decide

/-- VC3: AND #$80. -/
theorem test_and_VC3 :
    seen (fun t => (t.a, t.p, t.pc))
      (step (start 0x0200#16 [0x29#8, 0x80#8] [] |>.setA 0xFF#8)) =
      some (0x80#8, 0xB0#8, 0x0202#16) := by decide

/-- VC4: AND #$55. -/
theorem test_and_VC4 :
    seen (fun t => (t.a, t.p, t.pc))
      (step (start 0x0200#16 [0x29#8, 0x55#8] [] |>.setA 0xAA#8 |>.setP 0xF1#8)) =
      some (0x00#8, 0x73#8, 0x0202#16) := by decide

/-- VC5: EOR #$FF. -/
theorem test_eor_VC5 :
    seen (fun t => (t.a, t.p, t.pc))
      (step (start 0x0200#16 [0x49#8, 0xFF#8] [] |>.setA 0xFF#8)) =
      some (0x00#8, 0x32#8, 0x0202#16) := by decide

/-- VC6: EOR ($20). -/
theorem test_eor_VC6 :
    seen (fun t => (t.a, t.p, t.pc))
      (step (start 0x0200#16 [0x52#8, 0x20#8] [(0x0020#16, 0x00#8), (0x0021#16, 0x30#8), (0x3000#16, 0xF0#8)] |>.setA 0x0F#8)) =
      some (0xFF#8, 0xB0#8, 0x0202#16) := by decide

/-- VC7: ASL A. -/
theorem test_asl_VC7 :
    seen (fun t => (t.a, t.p, t.pc))
      (step (start 0x0200#16 [0x0A#8] [] |>.setA 0x80#8)) =
      some (0x00#8, 0x33#8, 0x0201#16) := by decide

/-- VC9: ASL $10. -/
theorem test_asl_VC9 :
    seen (fun t => (readByte t 0x0010#16, t.p, t.pc))
      (step (start 0x0200#16 [0x06#8, 0x10#8] [(0x0010#16, 0xFF#8)] |>.setA 0x11#8)) =
      some (0xFE#8, 0xB1#8, 0x0202#16) := by decide

/-- VC10: ROL A. -/
theorem test_rol_VC10 :
    seen (fun t => (t.a, t.p, t.pc))
      (step (start 0x0200#16 [0x2A#8] [] |>.setA 0x80#8 |>.setP 0x30#8)) =
      some (0x00#8, 0x33#8, 0x0201#16) := by decide

/-- VC12: ROL $1234. -/
theorem test_rol_VC12 :
    seen (fun t => (readByte t 0x1234#16, t.p, t.pc))
      (step (start 0x0200#16 [0x2E#8, 0x34#8, 0x12#8] [(0x1234#16, 0xFF#8)] |>.setP 0x31#8)) =
      some (0xFF#8, 0xB1#8, 0x0203#16) := by decide

/-- VC13: LSR A. -/
theorem test_lsr_VC13 :
    seen (fun t => (t.a, t.p, t.pc))
      (step (start 0x0200#16 [0x4A#8] [] |>.setA 0x01#8 |>.setP 0xB0#8)) =
      some (0x00#8, 0x33#8, 0x0201#16) := by decide

/-- VC15: LSR $10,X. -/
theorem test_lsr_VC15 :
    seen (fun t => (readByte t 0x0011#16, t.p, t.pc))
      (step (start 0x0200#16 [0x56#8, 0x10#8] [(0x0011#16, 0x80#8)] |>.setX 0x01#8)) =
      some (0x40#8, 0x30#8, 0x0202#16) := by decide

/-- VC17: ROR A. -/
theorem test_ror_VC17 :
    seen (fun t => (t.a, t.p, t.pc))
      (step (start 0x0200#16 [0x6A#8] [] |>.setA 0x00#8 |>.setP 0x31#8)) =
      some (0x80#8, 0xB0#8, 0x0201#16) := by decide

/-- VC18: ROR $12FF,X. -/
theorem test_ror_VC18 :
    seen (fun t => (readByte t 0x1300#16, t.p, t.pc))
      (step (start 0x0200#16 [0x7E#8, 0xFF#8, 0x12#8] [(0x1300#16, 0x02#8)] |>.setX 0x01#8 |>.setP 0x31#8)) =
      some (0x81#8, 0xB0#8, 0x0203#16) := by decide

/-- VD1: INC $10. -/
theorem test_inc_VD1 :
    seen (fun t => (readByte t 0x0010#16, t.p, t.pc))
      (step (start 0x0200#16 [0xE6#8, 0x10#8] [(0x0010#16, 0xFF#8)] |>.setP 0xB1#8)) =
      some (0x00#8, 0x33#8, 0x0202#16) := by decide

/-- VD3: INC A. -/
theorem test_inc_VD3 :
    seen (fun t => (t.a, t.p, t.pc))
      (step (start 0x0200#16 [0x1A#8] [] |>.setA 0xFF#8)) =
      some (0x00#8, 0x32#8, 0x0201#16) := by decide

/-- VD5: DEC $10. -/
theorem test_dec_VD5 :
    seen (fun t => (readByte t 0x0010#16, t.p, t.pc))
      (step (start 0x0200#16 [0xC6#8, 0x10#8] [(0x0010#16, 0x00#8)])) =
      some (0xFF#8, 0xB0#8, 0x0202#16) := by decide

/-- VD7: DEC A. -/
theorem test_dec_VD7 :
    seen (fun t => (t.a, t.p, t.pc))
      (step (start 0x0200#16 [0x3A#8] [] |>.setA 0x80#8)) =
      some (0x7F#8, 0x30#8, 0x0201#16) := by decide

/-- VD8: INX. -/
theorem test_inx_VD8 :
    seen (fun t => (t.x, t.p, t.pc))
      (step (start 0x0200#16 [0xE8#8] [] |>.setX 0xFF#8)) =
      some (0x00#8, 0x32#8, 0x0201#16) := by decide

/-- VD9: INY. -/
theorem test_iny_VD9 :
    seen (fun t => (t.y, t.p, t.pc))
      (step (start 0x0200#16 [0xC8#8] [] |>.setY 0x7F#8)) =
      some (0x80#8, 0xB0#8, 0x0201#16) := by decide

/-- VD10: DEX. -/
theorem test_dex_VD10 :
    seen (fun t => (t.x, t.p, t.pc))
      (step (start 0x0200#16 [0xCA#8] [] |>.setX 0x00#8)) =
      some (0xFF#8, 0xB0#8, 0x0201#16) := by decide

/-- VD11: DEY. -/
theorem test_dey_VD11 :
    seen (fun t => (t.y, t.p, t.pc))
      (step (start 0x0200#16 [0x88#8] [] |>.setY 0x01#8)) =
      some (0x00#8, 0x32#8, 0x0201#16) := by decide

/-- VD13: CMP #$41 (less). -/
theorem test_cmp_VD13 :
    seen (fun t => (t.a, t.p, t.pc))
      (step (start 0x0200#16 [0xC9#8, 0x41#8] [] |>.setA 0x40#8)) =
      some (0x40#8, 0xB0#8, 0x0202#16) := by decide

/-- VD14: CMP #$01 (greater, N from wrapped difference). -/
theorem test_cmp_VD14 :
    seen (fun t => (t.a, t.p, t.pc))
      (step (start 0x0200#16 [0xC9#8, 0x01#8] [] |>.setA 0x80#8)) =
      some (0x80#8, 0x31#8, 0x0202#16) := by decide

/-- VD17: CPX $10. -/
theorem test_cpx_VD17 :
    seen (fun t => (t.x, t.p, t.pc))
      (step (start 0x0200#16 [0xE4#8, 0x10#8] [(0x0010#16, 0x06#8)] |>.setX 0x05#8)) =
      some (0x05#8, 0xB0#8, 0x0202#16) := by decide

/-- VD18: CPY $1234. -/
theorem test_cpy_VD18 :
    seen (fun t => (t.y, t.p, t.pc))
      (step (start 0x0200#16 [0xCC#8, 0x34#8, 0x12#8] [(0x1234#16, 0x05#8)] |>.setY 0x06#8)) =
      some (0x06#8, 0x31#8, 0x0203#16) := by decide

/-- VD20: BIT $10. -/
theorem test_bit_VD20 :
    seen (fun t => (t.a, t.p, t.pc))
      (step (start 0x0200#16 [0x24#8, 0x10#8] [(0x0010#16, 0xFF#8)] |>.setA 0x00#8 |>.setP 0x31#8)) =
      some (0x00#8, 0xF3#8, 0x0202#16) := by decide

/-- VD21: BIT $1234. -/
theorem test_bit_VD21 :
    seen (fun t => (t.a, t.p, t.pc))
      (step (start 0x0200#16 [0x2C#8, 0x34#8, 0x12#8] [(0x1234#16, 0x40#8)] |>.setA 0x40#8 |>.setP 0xF0#8)) =
      some (0x40#8, 0x70#8, 0x0203#16) := by decide

/-- VF1: BPL +5 (taken). -/
theorem test_bpl_VF1 :
    seen (fun t => (t.pc, t.excycles))
      (step (start 0x0200#16 [0x10#8, 0x05#8] [])) =
      some (0x0207#16, 1) := by decide

/-- VF2: BPL +5 (not taken). -/
theorem test_bpl_VF2 :
    seen (fun t => (t.pc, t.excycles))
      (step (start 0x0200#16 [0x10#8, 0x05#8] [] |>.setP 0xB0#8)) =
      some (0x0202#16, 0) := by decide

/-- VF3: BMI -2 (to itself). -/
theorem test_bmi_VF3 :
    seen (fun t => (t.pc, t.excycles))
      (step (start 0x0200#16 [0x30#8, 0xFE#8] [] |>.setP 0xB0#8)) =
      some (0x0200#16, 1) := by decide

/-- VF4: BVC +127. -/
theorem test_bvc_VF4 :
    seen (fun t => (t.pc, t.excycles))
      (step (start 0x0200#16 [0x50#8, 0x7F#8] [])) =
      some (0x0281#16, 1) := by decide

/-- VF5: BVS -128. -/
theorem test_bvs_VF5 :
    seen (fun t => (t.pc, t.excycles))
      (step (start 0x0200#16 [0x70#8, 0x80#8] [] |>.setP 0x70#8)) =
      some (0x0182#16, 2) := by decide

/-- VF6: BVS (not taken). -/
theorem test_bvs_VF6 :
    seen (fun t => (t.pc, t.excycles))
      (step (start 0x0200#16 [0x70#8, 0x80#8] [])) =
      some (0x0202#16, 0) := by decide

/-- VF7: BCC +0. -/
theorem test_bcc_VF7 :
    seen (fun t => (t.pc, t.excycles))
      (step (start 0x0200#16 [0x90#8, 0x00#8] [])) =
      some (0x0202#16, 1) := by decide

/-- VF8: BCS +2 at 0x02FC (target 0x0300: page differs from next 0x02FE). -/
theorem test_bcs_VF8 :
    seen (fun t => (t.pc, t.excycles))
      (step (start 0x02FC#16 [0xB0#8, 0x02#8] [] |>.setP 0x31#8)) =
      some (0x0300#16, 2) := by decide

/-- VF10: BCS +0 at 0x02FE (next and target 0x0300: same page). -/
theorem test_bcs_VF10 :
    seen (fun t => (t.pc, t.excycles))
      (step (start 0x02FE#16 [0xB0#8, 0x00#8] [] |>.setP 0x31#8)) =
      some (0x0300#16, 1) := by decide

/-- VF11: BNE -3. -/
theorem test_bne_VF11 :
    seen (fun t => (t.pc, t.excycles))
      (step (start 0x0205#16 [0xD0#8, 0xFD#8] [])) =
      some (0x0204#16, 1) := by decide

/-- VF12: BNE (taken, charges ignore ADDCYCLES). -/
theorem test_bne_VF12 :
    seen (fun t => (t.pc, t.excycles))
      (step (uncharged (start 0x0200#16 [0xD0#8, 0x10#8] []))) =
      some (0x0212#16, 1) := by decide

/-- VF13: BEQ +16 at 0xFFF8 (wraps at 64 KB). -/
theorem test_beq_VF13 :
    seen (fun t => (t.pc, t.excycles))
      (step (start 0xFFF8#16 [0xF0#8, 0x10#8] [] |>.setP 0x32#8)) =
      some (0x000A#16, 2) := by decide

/-- VF14: BEQ -16 at 0x0004 (wraps downward). -/
theorem test_beq_VF14 :
    seen (fun t => (t.pc, t.excycles))
      (step (start 0x0004#16 [0xF0#8, 0xF0#8] [] |>.setP 0x32#8)) =
      some (0xFFF6#16, 2) := by decide

/-- VF16: CLC. -/
theorem test_clc_VF16 :
    seen (fun t => (t.p, t.pc))
      (step (start 0x0200#16 [0x18#8] [] |>.setP 0xFF#8)) =
      some (0xFE#8, 0x0201#16) := by decide

/-- VF17: SEC. -/
theorem test_sec_VF17 :
    seen (fun t => (t.p, t.pc))
      (step (start 0x0200#16 [0x38#8] [])) =
      some (0x31#8, 0x0201#16) := by decide

/-- VF18: CLI. -/
theorem test_cli_VF18 :
    seen (fun t => (t.p, t.pc))
      (step (start 0x0200#16 [0x58#8] [] |>.setP 0xFF#8)) =
      some (0xFB#8, 0x0201#16) := by decide

/-- VF19: SEI. -/
theorem test_sei_VF19 :
    seen (fun t => (t.p, t.pc))
      (step (start 0x0200#16 [0x78#8] [])) =
      some (0x34#8, 0x0201#16) := by decide

/-- VF20: CLV. -/
theorem test_clv_VF20 :
    seen (fun t => (t.p, t.pc))
      (step (start 0x0200#16 [0xB8#8] [] |>.setP 0xFF#8)) =
      some (0xBF#8, 0x0201#16) := by decide

/-- VF21: CLD. -/
theorem test_cld_VF21 :
    seen (fun t => (t.p, t.pc))
      (step (start 0x0200#16 [0xD8#8] [] |>.setP 0xFF#8)) =
      some (0xF7#8, 0x0201#16) := by decide

/-- VF22: SED. -/
theorem test_sed_VF22 :
    seen (fun t => (t.p, t.pc))
      (step (start 0x0200#16 [0xF8#8] [])) =
      some (0x38#8, 0x0201#16) := by decide

/-- VE4: ADC #$FF. -/
theorem test_adc_VE4 :
    seen (fun t => (t.a, t.p, t.pc))
      (step (start 0x0200#16 [0x69#8, 0xFF#8] [] |>.setA 0x80#8 |>.setP 0x30#8)) =
      some (0x7F#8, 0x71#8, 0x0202#16) := by decide

/-- VE28: ADC #$80. -/
theorem test_adc_VE28 :
    seen (fun t => (t.a, t.p, t.pc))
      (step (start 0x0200#16 [0x69#8, 0x80#8] [] |>.setA 0x80#8 |>.setP 0x38#8)) =
      some (0x60#8, 0x7B#8, 0x0202#16) := by decide

/-- VE15: SBC #$B0. -/
theorem test_sbc_VE15 :
    seen (fun t => (t.a, t.p, t.pc))
      (step (start 0x0200#16 [0xE9#8, 0xB0#8] [] |>.setA 0x50#8 |>.setP 0x31#8)) =
      some (0xA0#8, 0xF0#8, 0x0202#16) := by decide

/-- VE47: SBC #$0C. -/
theorem test_sbc_VE47 :
    seen (fun t => (t.a, t.p, t.pc))
      (step (start 0x0200#16 [0xE9#8, 0x0C#8] [] |>.setA 0x1B#8 |>.setP 0x38#8)) =
      some (0x08#8, 0x39#8, 0x0202#16) := by decide

/-- VG2: BRK (all flags set; D stays). -/
theorem test_brk_VG2 :
    seen (fun t => (readByte t 0x0180#16, readByte t 0x017F#16, readByte t 0x017E#16, t.sp, t.p, t.pc))
      (step (start 0x12FF#16 [0x00#8] [(0xFFFE#16, 0x34#8), (0xFFFF#16, 0x12#8)] |>.setSp 0x80#8 |>.setP 0xFB#8)) =
      some (0x13#8, 0x00#8, 0xFB#8, 0x7D#8, 0xFF#8, 0x1234#16) := by decide

/-- VG3: BRK (stack wraps: S = 0x01). -/
theorem test_brk_VG3 :
    seen (fun t => (readByte t 0x0101#16, readByte t 0x0100#16, readByte t 0x01FF#16, t.sp, t.p, t.pc))
      (step (start 0x0300#16 [0x00#8] [(0xFFFE#16, 0x00#8), (0xFFFF#16, 0x20#8)] |>.setSp 0x01#8)) =
      some (0x03#8, 0x01#8, 0x30#8, 0xFE#8, 0x34#8, 0x2000#16) := by decide

/-- VG6: RTI (popped status 0x00: B and U forced). -/
theorem test_rti_VG6 :
    seen (fun t => (t.sp, t.p, t.pc))
      (step (start 0x0200#16 [0x40#8] [(0x01FD#16, 0x00#8), (0x01FE#16, 0x01#8), (0x01FF#16, 0x10#8)] |>.setSp 0xFC#8 |>.setP 0xFF#8)) =
      some (0xFF#8, 0x30#8, 0x1001#16) := by decide

/-- VG7: RTI (stack wraps: S = 0xFE). -/
theorem test_rti_VG7 :
    seen (fun t => (t.sp, t.p, t.pc))
      (step (start 0x0200#16 [0x40#8] [(0x01FF#16, 0x81#8), (0x0100#16, 0x78#8), (0x0101#16, 0x56#8)] |>.setSp 0xFE#8)) =
      some (0x01#8, 0xB1#8, 0x5678#16) := by decide

/-- VG9: JSR $3000 (stack wraps: S = 0x00). -/
theorem test_jsr_VG9 :
    seen (fun t => (readByte t 0x0100#16, readByte t 0x01FF#16, t.sp, t.pc))
      (step (start 0x12FE#16 [0x20#8, 0x00#8, 0x30#8] [] |>.setSp 0x00#8)) =
      some (0x13#8, 0x00#8, 0xFE#8, 0x3000#16) := by decide

/-- VG10: RTS. -/
theorem test_rts_VG10 :
    seen (fun t => (t.sp, t.pc))
      (step (start 0x0200#16 [0x60#8] [(0x01FE#16, 0x02#8), (0x01FF#16, 0x02#8)] |>.setSp 0xFD#8)) =
      some (0xFF#8, 0x0203#16) := by decide

/-- VG11: RTS (popped 0xFFFF). -/
theorem test_rts_VG11 :
    seen (fun t => (t.sp, t.pc))
      (step (start 0x0200#16 [0x60#8] [(0x01FE#16, 0xFF#8), (0x01FF#16, 0xFF#8)] |>.setSp 0xFD#8)) =
      some (0xFF#8, 0x0000#16) := by decide

/-- VG14: JMP $1234. -/
theorem test_jmpAbs_VG14 :
    seen (fun t => t.pc)
      (step (start 0x0200#16 [0x4C#8, 0x34#8, 0x12#8] [])) =
      some 0x1234#16 := by decide

/-- VA24: JMP ($10FF) (page-wrap bug). -/
theorem test_jmpInd_VA24 :
    seen (fun t => t.pc)
      (step (start 0x0200#16 [0x6C#8, 0xFF#8, 0x10#8] [(0x10FF#16, 0x34#8), (0x1000#16, 0x12#8), (0x1100#16, 0x56#8)])) =
      some 0x1234#16 := by decide

/-- VH1: TXA. -/
theorem test_txa_VH1 :
    seen (fun t => (t.a, t.p, t.pc))
      (step (start 0x0200#16 [0x8A#8] [] |>.setA 0x55#8 |>.setX 0x00#8)) =
      some (0x00#8, 0x32#8, 0x0201#16) := by decide

/-- VH3: TAX. -/
theorem test_tax_VH3 :
    seen (fun t => (t.x, t.p, t.pc))
      (step (start 0x0200#16 [0xAA#8] [] |>.setA 0xFF#8)) =
      some (0xFF#8, 0xB0#8, 0x0201#16) := by decide

/-- VH4: TYA. -/
theorem test_tya_VH4 :
    seen (fun t => (t.a, t.p, t.pc))
      (step (start 0x0200#16 [0x98#8] [] |>.setY 0x7F#8 |>.setP 0xB2#8)) =
      some (0x7F#8, 0x30#8, 0x0201#16) := by decide

/-- VH5: TAY. -/
theorem test_tay_VH5 :
    seen (fun t => (t.y, t.p, t.pc))
      (step (start 0x0200#16 [0xA8#8] [] |>.setA 0x00#8 |>.setY 0x12#8)) =
      some (0x00#8, 0x32#8, 0x0201#16) := by decide

/-- VH6: TXS (no flags). -/
theorem test_txs_VH6 :
    seen (fun t => (t.sp, t.p, t.pc))
      (step (start 0x0200#16 [0x9A#8] [] |>.setX 0x00#8 |>.setP 0xB0#8)) =
      some (0x00#8, 0xB0#8, 0x0201#16) := by decide

/-- VH8: TSX. -/
theorem test_tsx_VH8 :
    seen (fun t => (t.x, t.p, t.pc))
      (step (start 0x0200#16 [0xBA#8] [] |>.setX 0x12#8 |>.setSp 0x00#8)) =
      some (0x00#8, 0x32#8, 0x0201#16) := by decide

/-- VH11: PHA (S = 0x00 wraps). -/
theorem test_pha_VH11 :
    seen (fun t => (readByte t 0x0100#16, t.sp, t.p, t.pc))
      (step (start 0x0200#16 [0x48#8] [] |>.setA 0x42#8 |>.setSp 0x00#8)) =
      some (0x42#8, 0xFF#8, 0x30#8, 0x0201#16) := by decide

/-- VH13: PLA (S = 0xFF wraps). -/
theorem test_pla_VH13 :
    seen (fun t => (t.a, t.sp, t.p, t.pc))
      (step (start 0x0200#16 [0x68#8] [(0x0100#16, 0x00#8)] |>.setA 0x11#8)) =
      some (0x00#8, 0x00#8, 0x32#8, 0x0201#16) := by decide

/-- VH14: PHP. -/
theorem test_php_VH14 :
    seen (fun t => (readByte t 0x01FF#16, t.sp, t.p, t.pc))
      (step (start 0x0200#16 [0x08#8] [] |>.setP 0xFB#8)) =
      some (0xFB#8, 0xFE#8, 0xFB#8, 0x0201#16) := by decide

/-- VH17: PLP. -/
theorem test_plp_VH17 :
    seen (fun t => (t.sp, t.p, t.pc))
      (step (start 0x0200#16 [0x28#8] [(0x01FF#16, 0xCF#8)] |>.setSp 0xFE#8)) =
      some (0xFF#8, 0xFF#8, 0x0201#16) := by decide

/-- VH18: NOP. -/
theorem test_nop_VH18 :
    seen (fun t => (t.a, t.p, t.pc))
      (step (start 0x0200#16 [0xEA#8] [] |>.setA 0x01#8 |>.setX 0x02#8 |>.setY 0x03#8 |>.setP 0xF3#8)) =
      some (0x01#8, 0xF3#8, 0x0201#16) := by decide

/-- VH19: .byte $02 (unknown). -/
theorem test_unk_VH19 :
    seen (fun t => (t.a, t.p, t.pc))
      (step (start 0x0200#16 [0x02#8, 0xE8#8] [])) =
      some (0x00#8, 0x30#8, 0x0202#16) := by decide

/-- VH22: .byte $FF at 0xFFFF. -/
theorem test_unk_VH22 :
    seen (fun t => (t.a, t.p, t.pc))
      (step (start 0xFFFF#16 [0xFF#8] [])) =
      some (0x00#8, 0x30#8, 0x0001#16) := by decide

/-- R211, R222: under the policy `fault` the model records a fault. -/
theorem test_unk_strict_policy :
    seen (fun t => t.pc) (step (strict (start 0x0200#16 [0x02#8] []))) = none := by decide

/-- R240: reset keeps memory and the counters. -/
theorem test_host_reset :
    hostReset ((start 0x1234#16 [0xEA#8] []).addExcycles 3) =
      { (start 0x1234#16 [0xEA#8] []).addExcycles 3 with pc := 0x0200#16 } := by decide

/-- R244, R9: the run stops before the sentinel is executed. -/
theorem test_host_run_stops_at_sentinel :
    hostRun (haltOnSentinel 0xDB#8) 4 (start 0x0200#16 [0xE8#8, 0xDB#8] []) =
      .halted ((start 0x0200#16 [0xE8#8, 0xDB#8] []).setX 0x01#8 |>.setPc 0x0201#16) := by decide

/-! ### Witnesses: for every statement with hypotheses, a state and operands that meet them together -/

/-- LDA absolute at `0xFFFE`: its operand straddles the top of memory. -/
def straddling : State := start 0xFFFE#16 [0xAD#8, 0x12#8, 0x34#8] [(0x3412#16, 0x88#8)]

theorem witness_StepRunsTheDecodedInstruction :
    decode [readByte straddling straddling.pc, readByte straddling (straddling.pc + 1#16),
      readByte straddling (straddling.pc + 2#16)] = .instr (.lda (.abs 0x3412#16)) [] ∧
    (Instr.lda (.abs 0x3412#16)).wellFormed = true := by decide

theorem witness_EncodedInstructionAtPcIsExecuted :
    (Instr.lda (.abs 0x3412#16)).wellFormed = true ∧
    ∀ (k : Nat) (v : Byte), (encode (.lda (.abs 0x3412#16)))[k]? = some v →
      readByte straddling (straddling.pc + BitVec.ofNat 16 k) = v := by
  refine ⟨by decide, fun k v h => ?_⟩
  match k, h with
  | 0, h => cases h; decide
  | 1, h => cases h; decide
  | 2, h => cases h; decide
  | _ + 3, h => cases h

theorem witness_DecodeOfEncodeIsTheInstruction : (Instr.stx (.zpy 0xF0#8)).wellFormed = true := by decide

theorem witness_EncodeOfDecodeIsTheBytes :
    decode [0x6C#8, 0x34#8, 0x12#8, 0xEA#8] = .instr (.jmpInd 0x1234#16) [0xEA#8] := by decide

/-- A taken branch at `0x02FC` that crosses a page: the step adds two to `excycles`, the bound. -/
def crossing : State := start 0x02FC#16 [0xB0#8, 0x02#8] [] |>.setP 0x31#8

theorem witness_EveryStepKeepsTheInvariant : crossing.Inv ∧ ∃ t, step crossing = .next t :=
  ⟨⟨by decide, by decide⟩, _, rfl⟩

theorem witness_ReachableStatusHasBreakAndUnusedSet : Reachable State.reset :=
  .launch ⟨by decide, by decide, by decide, by decide⟩

theorem witness_AddCyclesInfluencesNothingButExcycles_next : ∃ t, step crossing = .next t := ⟨_, rfl⟩

theorem witness_AddCyclesInfluencesNothingButExcycles_fault :
    step (strict (start 0x0200#16 [0xFF#8] [])) = .fault (.unknownOpcode 0xFF#8) := rfl

theorem witness_ParametersAndProcessorCyclesNeverChange : ∃ t, step crossing = .next t := ⟨_, rfl⟩

theorem witness_ExcyclesNeverFallAndRiseByAtMostTwo :
    ∃ t, step crossing = .next t ∧ t.excycles = crossing.excycles + 2 := ⟨_, rfl, by decide⟩

theorem witness_OnlyTheListedInstructionsWriteEachPieceOfState :
    (Instr.inc (.zp 0x10#8)).wellFormed = true ∧ ∃ t, exec (.inc (.zp 0x10#8)) crossing = .next t ∧
      Reg.a ∉ writtenRegs (.inc (.zp 0x10#8)) ∧ Flag.c ∉ writtenFlags (.inc (.zp 0x10#8)) :=
  ⟨by decide, _, rfl, by decide, by decide⟩

theorem witness_OnlyTheListedInstructionsWriteEachPieceOfState_memory :
    (Instr.inc .acc).wellFormed = true ∧ mayWriteMemory (.inc .acc) = false ∧
      ∃ t, exec (.inc .acc) crossing = .next t := ⟨by decide, by decide, _, rfl⟩

theorem witness_InterruptDisableIsNeverTested :
    Instr.cli ≠ .brk ∧ Instr.cli ≠ .php ∧ ∃ t, exec .cli crossing = .next t := ⟨by decide, by decide, _, rfl⟩

/-- VB12: STA absolute onto the next opcode. -/
def selfModifying : State := start 0x0200#16 [0x8D#8, 0x03#8, 0x02#8] [] |>.setA 0xE8#8 |>.setPc 0x0201#16

theorem witness_StoredByteIsTheNextOpcodeFetched :
    Memory.wf selfModifying.mem = true ∧ resolve (.abs 0x0203#16) selfModifying =
      .mem (selfModifying.pc + BitVec.ofNat 16 (Operand.abs 0x0203#16).mode.operandBytes) := by decide

theorem witness_MemWriteStoresOneByte : Memory.wf straddling.mem = true := by decide

theorem witness_WrappedWordReadStaysInThePage : (0x10FE#16).toNat % 256 ≠ 255 := by decide

theorem witness_ImmediateDatumIsTheByteAfterTheOpcode :
    readByte (start 0xFFFF#16 [0xA9#8, 0x01#8] []) (start 0xFFFF#16 [0xA9#8, 0x01#8] []).pc = 0xA9#8 := by decide

theorem witness_FlagsNZWritesZeroAndNegativeOnly : Flag.c ≠ Flag.n ∧ Flag.c ≠ Flag.z := by decide

/-- A store that wraps at the top of memory. -/
theorem witness_StoresWriteOneByteAndNothingElse :
    resolve (.absx 0xFFFF#16) (straddling.setX 0x02#8) = .mem 0x0001#16 ∧
      Memory.wf (straddling.setX 0x02#8).mem = true := by decide

theorem witness_ShiftsLeftMoveBitSevenToCarry :
    resolve (.zpx 0xFF#8) (straddling.setX 0xFF#8) = .mem 0x00FE#16 ∧
      Memory.wf (straddling.setX 0xFF#8).mem = true := by decide

theorem witness_ShiftsRightMoveBitZeroToCarry :
    resolve (.abs 0xFFFF#16) straddling = .mem 0xFFFF#16 ∧ Memory.wf straddling.mem = true := by decide

theorem witness_IncAndDecWrapAndLeaveCarry :
    resolve (.zp 0x00#8) straddling = .mem 0x0000#16 ∧ Memory.wf straddling.mem = true := by decide

/-- `crossing` has N, V and Z clear and C set; under the status `0xFE` they are the other way round: so every branch
has a state where it is taken and one where it is not. -/
theorem witness_BranchesGoToTheirTargets :
    (getFlag crossing.p .n = false ∧ getFlag crossing.p .v = false ∧ getFlag crossing.p .z = false ∧
      getFlag crossing.p .c = true) ∧
    (getFlag (crossing.setP 0xFE#8).p .n = true ∧ getFlag (crossing.setP 0xFE#8).p .v = true ∧
      getFlag (crossing.setP 0xFE#8).p .z = true ∧ getFlag (crossing.setP 0xFE#8).p .c = false) := by decide

/-- VE8's operands, binary. -/
def binary : State := start 0x0201#16 [0x40#8] [] |>.setA 0x3F#8 |>.setP 0x31#8

theorem witness_BinaryAddIsExactModulo256 : getFlag binary.p .d = false := by decide

theorem witness_BinarySubtractIsExactModulo256 : getFlag binary.p .d = false := by decide

/-- VE29's operands, decimal, not valid BCD: `0x0A` and `0x00`, no carry. -/
def malformed : State := start 0x0201#16 [0x00#8] [] |>.setA 0x0A#8 |>.setP 0x38#8

theorem witness_DecimalAddCorrectsNibblesAndFlagsRawSum :
    getFlag malformed.p .d = true ∧
    10 = lowNibble malformed.a + lowNibble (operandByte (.imm 0x00#8) malformed) + bitNat (getFlag malformed.p .c) ∧
    1 = highNibble malformed.a + highNibble (operandByte (.imm 0x00#8) malformed) + (if 9 < 10 then 1 else 0) ∧
    26 = 1 % 16 * 16 + 10 % 16 := by decide

/-- VE47's operands, decimal, not valid BCD: `0x1B` and `0x0C`, no carry. -/
def malformedBorrow : State := malformed.setA 0x1B#8

theorem witness_DecimalSubtractCorrectsBorrowedNibbles :
    getFlag malformedBorrow.p .d = true ∧
    14 = lowNibble malformedBorrow.a + (15 - lowNibble (operandByte (.imm 0x0C#8) malformedBorrow)) +
      bitNat (getFlag malformedBorrow.p .c) ∧
    16 = highNibble malformedBorrow.a + (15 - highNibble (operandByte (.imm 0x0C#8) malformedBorrow)) +
      (if 14 ≤ 15 then 0 else 1) ∧
    14 = (malformedBorrow.a.toNat + 255 - (operandByte (.imm 0x0C#8) malformedBorrow).toNat +
      bitNat (getFlag malformedBorrow.p .c)) % 256 := by decide

/-- VE25's operands, valid BCD: `0x58` and `0x46` with carry. -/
def validDecimal : State := start 0x0201#16 [0x46#8] [] |>.setA 0x58#8 |>.setP 0x39#8

theorem witness_DecimalAddOfValidBcdIsTheDecimalSum :
    getFlag validDecimal.p .d = true ∧ ValidBcd validDecimal.a ∧
      ValidBcd (operandByte (.imm 0x46#8) validDecimal) := by
  simp only [ValidBcd]
  decide

theorem witness_DecimalSubtractOfValidBcdIsTheDecimalDifference :
    getFlag validDecimal.p .d = true ∧ ValidBcd validDecimal.a ∧
      ValidBcd (operandByte (.imm 0x46#8) validDecimal) := by
  simp only [ValidBcd]
  decide

/-- `S = 0x00` and `S = 0x01`: a push of one, two or three bytes wraps. -/
def wrapping : State := start 0x0300#16 [0x00#8] [(0xFFFE#16, 0x00#8), (0xFFFF#16, 0x20#8)] |>.setSp 0x01#8

theorem witness_PushAndPopWrapInPageOne : Memory.wf (wrapping.setSp 0x00#8).mem = true := by decide

theorem witness_PoppedWordIsThePushedWord : Memory.wf (wrapping.setSp 0x00#8).mem = true := by decide

theorem witness_PushesWrapTheStackIndex : (List.replicate 256 (0x42#8 : Byte)).length = 256 := by
  rw [List.length_replicate]

theorem witness_BrkSavesStateAndEntersTheVector : Memory.wf wrapping.mem = true := by decide

theorem witness_RtiUndoesBrk : Memory.wf wrapping.mem = true := by decide

/-- JSR `$3000` at `0x12FE`, inside the instruction, with `S = 0x00` (VG9). -/
def calling : State := start 0x12FE#16 [0x20#8, 0x00#8, 0x30#8] [] |>.setSp 0x00#8 |>.setPc 0x12FF#16

theorem witness_JsrPushesTheReturnAddressAndJumps :
    Memory.wf calling.mem = true ∧ readByte calling calling.pc = loByte 0x3000#16 ∧
    readByte calling (calling.pc + 1#16) = hiByte 0x3000#16 ∧
    calling.pc ∉ [stackBelow calling 0, stackBelow calling 1] ∧
    calling.pc + 1#16 ∉ [stackBelow calling 0, stackBelow calling 1] := by decide

theorem witness_RtsReturnsAfterJsr : Memory.wf calling.mem = true := by decide

theorem witness_AccumulatorPushAndPull : Memory.wf wrapping.mem = true := by decide

theorem witness_StatusPushAndPull : Memory.wf wrapping.mem = true := by decide

theorem witness_UnknownOpcodeSkipsOneByteOrFaults :
    State.reset.config.unknownPolicy = .skip ∧ (strict State.reset).config.unknownPolicy = .fault ∧
    (start 0xFFFF#16 [0xFF#8] []).config.unknownPolicy = .skip ∧
    unknownOpcodes.contains (readByte (start 0xFFFF#16 [0xFF#8] []) (start 0xFFFF#16 [0xFF#8] []).pc) = true := by decide

theorem witness_RunEndsAtTheFirstHaltingState :
    hostRun (haltOnSentinel 0xDB#8) 4 (start 0x0200#16 [0xE8#8, 0xDB#8] []) =
      .halted ((start 0x0200#16 [0xE8#8, 0xDB#8] []).setX 0x01#8 |>.setPc 0x0201#16) :=
  test_host_run_stops_at_sentinel

end Sys2Proof.Tests
end

section
/-! R8: `ADDCYCLES` and `excycles` influence nothing but `excycles`. The proof is a simulation: `State.withTiming`
replaces the two, and every operation of the model commutes with it, up to the value of the counter. -/

namespace Sys2Proof.Machine

/-- The state with `ADDCYCLES` and `excycles` replaced. -/
def State.withTiming (n : Nat) (b : Bool) (s : State) : State :=
  { s with excycles := n, config := { s.config with addCycles := b } }

/-- The outcome of a step with the next state changed by `f`; a fault or a refusal stays. -/
def mapNext (f : State → State) : Host.Outcome State Fault Refusal → Host.Outcome State Fault Refusal
  | .next t => .next (f t)
  | .fault r => .fault r
  | .refused r => .refused r

variable (s : State) (n : Nat) (b : Bool)

theorem resolve_withTiming (o : Operand) : resolve o (s.withTiming n b) = resolve o s := by
  cases o <;> rfl

theorem readOp_withTiming (d : Descriptor) : readOp d (s.withTiming n b) = readOp d s := by
  cases d <;> rfl

theorem operandByte_withTiming (o : Operand) : operandByte o (s.withTiming n b) = operandByte o s := by
  rw [operandByte, resolve_withTiming, readOp_withTiming, operandByte]

theorem writeOp_withTiming (d : Descriptor) (v : Byte) :
    writeOp d v (s.withTiming n b) = (writeOp d v s).withTiming n b := by
  cases d <;> rfl

/-- The charge of the mode shows in the counter alone (R95). -/
theorem chargeMode_withTiming (o : Operand) :
    chargeMode o (s.withTiming n b) =
      (chargeMode o s).withTiming (n + resolveCycles o (s.withTiming n b)) b := rfl

/-- A branch charges the same cycles whatever `ADDCYCLES` is (R93, decision D10). -/
theorem branch_withTiming (taken : Bool) (d : Byte) :
    ∃ m, branch taken d (s.withTiming n b) = (branch taken d s).withTiming m b := by
  cases taken with
  | false => exact ⟨n, rfl⟩
  | true => exact ⟨n + branchCycles (s.pc + 1#16) (branchTarget (s.pc + 1#16) d), rfl⟩

theorem readForm_withTiming (o : Operand) {f : Byte → State → State}
    (hf : ∀ v t m, f v (t.withTiming m b) = (f v t).withTiming m b) :
    ∃ m, readForm o f (s.withTiming n b) = (readForm o f s).withTiming m b := by
  rw [readForm_eq, operandByte_withTiming, chargeMode_withTiming, hf]
  exact ⟨_, rfl⟩

theorem storeForm_withTiming (o : Operand) (v : Byte) :
    ∃ m, storeForm o v (s.withTiming n b) = (storeForm o v s).withTiming m b := by
  rw [storeForm, resolve_withTiming, chargeMode_withTiming, writeOp_withTiming]
  exact ⟨_, rfl⟩

theorem modifyForm_withTiming (o : Operand) (r p : Byte) :
    ∃ m, modifyForm o r p (s.withTiming n b) = (modifyForm o r p s).withTiming m b := by
  rw [modifyForm, resolve_withTiming, chargeMode_withTiming, writeOp_withTiming]
  exact ⟨_, rfl⟩

theorem shiftForm_withTiming (f : Byte → Bool → Byte × Bool) (o : Operand) :
    ∃ m, shiftForm f o (s.withTiming n b) = (shiftForm f o s).withTiming m b := by
  rw [shiftForm, operandByte_withTiming]
  exact modifyForm_withTiming s n b o _ _

theorem stepForm_withTiming (f : Byte → Byte) (o : Operand) :
    ∃ m, stepForm f o (s.withTiming n b) = (stepForm f o s).withTiming m b := by
  rw [stepForm, operandByte_withTiming]
  exact modifyForm_withTiming s n b o _ _

theorem execUnk_of_skip {s : State} (h : s.config.unknownPolicy = .skip) (op : Byte) :
    execUnk op s = .next (advance 1 s) := by
  simp only [execUnk, h]

theorem execUnk_of_fault {s : State} (h : s.config.unknownPolicy = .fault) (op : Byte) :
    execUnk op s = .fault (.unknownOpcode op) := by
  simp only [execUnk, h]

/-- The policy is a parameter of its own, which other timing leaves as it is (R10, R211). -/
theorem execUnk_withTiming (op : Byte) :
    execUnk op (s.withTiming n b) = mapNext (State.withTiming n b) (execUnk op s) := by
  cases hp : s.config.unknownPolicy with
  | skip =>
    rw [execUnk_of_skip hp, execUnk_of_skip (s := s.withTiming n b) hp]
    rfl
  | fault =>
    rw [execUnk_of_fault hp, execUnk_of_fault (s := s.withTiming n b) hp]
    rfl

/-- Every instruction has the same outcome under other timing, up to the timing. The counter
can differ after the shapes that resolve an operand and after a branch; every other instruction leaves it alone. -/
theorem exec_withTiming (i : Instr) :
    ∃ m, exec i (s.withTiming n b) = mapNext (State.withTiming m b) (exec i s) := by
  have completes : ∀ {t u : State}, (∃ m, t = u.withTiming m b) →
      ∃ m, .next t = mapNext (State.withTiming m b) (.next u) := fun ⟨m, h⟩ => ⟨m, congrArg _ h⟩
  cases i with
  | lda o | ldx o | ldy o | ora o | and o | eor o | adc o | sbc o | cmp o | cpx o | cpy o | bit o =>
    exact completes (readForm_withTiming s n b o fun _ _ _ => rfl)
  | sta o | stx o | sty o | stz o => exact completes (storeForm_withTiming s n b o _)
  | asl o | rol o | lsr o | ror o => exact completes (shiftForm_withTiming s n b _ o)
  | inc o | dec o => exact completes (stepForm_withTiming s n b _ o)
  | bpl d | bmi d | bvc d | bvs d | bcc d | bcs d | bne d | beq d => exact completes (branch_withTiming s n b _ d)
  | unk op => exact ⟨n, execUnk_withTiming s n b op⟩
  | _ => exact ⟨n, rfl⟩

/-- A step has the same outcome under other timing, up to the timing: it fetches the same instruction. -/
theorem step_withTiming : ∃ m, step (s.withTiming n b) = mapNext (State.withTiming m b) (step s) :=
  exec_withTiming (passOpcode s) n b (fetchInstr s)

end Sys2Proof.Machine

namespace Sys2Proof

open Sys2Proof.Machine

/-- Settles O11: the step commutes with replacing `ADDCYCLES` and `excycles`, up to the new value of the counter. -/
theorem addCyclesInfluencesNothingButExcycles : Obligations.AddCyclesInfluencesNothingButExcycles := by
  unfold Obligations.AddCyclesInfluencesNothingButExcycles
  intro s n b
  obtain ⟨m, hm⟩ := step_withTiming s n b
  refine ⟨fun t ht => ⟨m, ?_⟩, fun f hf => ?_⟩
  · rw [ht] at hm
    exact hm
  · rw [hf] at hm
    exact hm

end Sys2Proof
end

section
/-! What an instruction can change, said once (R22, R24, R26, R48). `Frame` names the registers and flags that may
change and whether memory may. Each update of the state has one frame, frames compose, and `exec_frame` gives every
instruction the frame that the lists of the rules allow it. The invariants of the machine follow from it. -/

namespace Sys2Proof.Machine

/-- From `s` to `t` no register outside `regs` and no flag outside `flags` changes, and memory does not unless
`writes` holds. `PC` and `excycles` are free. -/
structure Frame (regs : List Reg) (flags : List Flag) (writes : Bool) (s t : State) : Prop where
  reg : ∀ r, r ∉ regs → getReg t r = getReg s r
  flag : ∀ f, f ∉ flags → getFlag t.p f = getFlag s.p f
  mem : writes = false → t.mem = s.mem
  config : t.config = s.config
  processorCycles : t.processorCycles = s.processorCycles

variable {regs : List Reg} {flags : List Flag} {writes : Bool} {s t u : State}

theorem Frame.refl (s : State) : Frame regs flags writes s s :=
  ⟨fun _ _ => rfl, fun _ _ => rfl, fun _ => rfl, rfl, rfl⟩

theorem Frame.trans (h₁ : Frame regs flags writes s t) (h₂ : Frame regs flags writes t u) :
    Frame regs flags writes s u where
  reg r hr := (h₂.reg r hr).trans (h₁.reg r hr)
  flag f hf := (h₂.flag f hf).trans (h₁.flag f hf)
  mem hw := (h₂.mem hw).trans (h₁.mem hw)
  config := h₂.config.trans h₁.config
  processorCycles := h₂.processorCycles.trans h₁.processorCycles

/-! ### The frame of each update -/

theorem setA_frame (h : .a ∈ regs) (v : Byte) : Frame regs flags writes s (s.setA v) :=
  ⟨fun | .a, hr => absurd h hr | .x, _ | .y, _ | .sp, _ => rfl, fun _ _ => rfl, fun _ => rfl, rfl, rfl⟩

theorem setX_frame (h : .x ∈ regs) (v : Byte) : Frame regs flags writes s (s.setX v) :=
  ⟨fun | .x, hr => absurd h hr | .a, _ | .y, _ | .sp, _ => rfl, fun _ _ => rfl, fun _ => rfl, rfl, rfl⟩

theorem setY_frame (h : .y ∈ regs) (v : Byte) : Frame regs flags writes s (s.setY v) :=
  ⟨fun | .y, hr => absurd h hr | .a, _ | .x, _ | .sp, _ => rfl, fun _ _ => rfl, fun _ => rfl, rfl, rfl⟩

theorem setSp_frame (h : .sp ∈ regs) (v : Byte) : Frame regs flags writes s (s.setSp v) :=
  ⟨fun | .sp, hr => absurd h hr | .a, _ | .x, _ | .y, _ => rfl, fun _ _ => rfl, fun _ => rfl, rfl, rfl⟩

theorem setP_frame {q : Byte} (h : ∀ f, f ∉ flags → getFlag q f = getFlag s.p f) :
    Frame regs flags writes s (s.setP q) :=
  ⟨fun | .a, _ | .x, _ | .y, _ | .sp, _ => rfl, h, fun _ => rfl, rfl, rfl⟩

theorem setPc_frame (w : Word) : Frame regs flags writes s (s.setPc w) :=
  ⟨fun | .a, _ | .x, _ | .y, _ | .sp, _ => rfl, fun _ _ => rfl, fun _ => rfl, rfl, rfl⟩

theorem addExcycles_frame (n : Nat) : Frame regs flags writes s (s.addExcycles n) :=
  ⟨fun | .a, _ | .x, _ | .y, _ | .sp, _ => rfl, fun _ _ => rfl, fun _ => rfl, rfl, rfl⟩

theorem writeByte_frame (addr : Word) (v : Byte) : Frame regs flags true s (writeByte s addr v) :=
  ⟨fun | .a, _ | .x, _ | .y, _ | .sp, _ => rfl, fun _ _ => rfl, Bool.noConfusion, rfl, rfl⟩

/-! ### The frame of each shared operation -/

theorem flagsNZ_frame (v : Byte) : Frame regs [.n, .z] writes s (s.setP (flagsNZ v s.p)) :=
  setP_frame fun f hf => by simp_all

theorem loadA_frame (h : .a ∈ regs) (v : Byte) : Frame regs [.n, .z] writes s (loadA v s) :=
  (setA_frame h v).trans (flagsNZ_frame v)

theorem loadX_frame (h : .x ∈ regs) (v : Byte) : Frame regs [.n, .z] writes s (loadX v s) :=
  (setX_frame h v).trans (flagsNZ_frame v)

theorem loadY_frame (h : .y ∈ regs) (v : Byte) : Frame regs [.n, .z] writes s (loadY v s) :=
  (setY_frame h v).trans (flagsNZ_frame v)

theorem applyAlu_frame (r : AluResult) : Frame [.a] [.n, .v, .z, .c] writes s (applyAlu r s) :=
  (setA_frame (.head _) r.acc).trans (setP_frame fun f hf => by simp_all)

theorem push_frame (h : .sp ∈ regs) (v : Byte) : Frame regs flags true s (push v s) :=
  (writeByte_frame _ v).trans (setSp_frame h _)

theorem pushWord_frame (h : .sp ∈ regs) (w : Word) : Frame regs flags true s (pushWord w s) :=
  (push_frame h _).trans (push_frame h _)

theorem pop_frame (h : .sp ∈ regs) : Frame regs flags writes s (pop s).2 := setSp_frame h _

theorem popWord_frame (h : .sp ∈ regs) : Frame regs flags writes s (popWord s).2 :=
  (pop_frame h).trans (pop_frame h)

theorem takeTrap_frame (vector : Word) : Frame [.sp] [.i, .b] true s (takeTrap vector s) :=
  have hsp : Reg.sp ∈ [Reg.sp] := .head _
  (pushWord_frame hsp _).trans <| (push_frame hsp _).trans <|
    (setP_frame fun f hf => by simp_all).trans (setPc_frame _)

/-- Loading `P` may change every flag (R185, R209). -/
theorem setP_frame_all (q : Byte) : Frame regs [.n, .v, .u, .b, .d, .i, .z, .c] writes s (s.setP q) :=
  setP_frame fun f hf => absurd (by cases f <;> decide) hf

theorem returnFromTrap_frame :
    Frame [.sp] [.n, .v, .u, .b, .d, .i, .z, .c] writes s (returnFromTrap s) :=
  have hsp : Reg.sp ∈ [Reg.sp] := .head _
  (pop_frame hsp).trans <| (setP_frame_all _).trans <| (popWord_frame hsp).trans (setPc_frame _)

theorem branch_frame (taken : Bool) (d : Byte) : Frame regs flags writes s (branch taken d s) := by
  cases taken with
  | false => exact setPc_frame _
  | true => exact (addExcycles_frame _).trans (setPc_frame _)

/-! ### The frame of each shape of instruction (R99) -/

theorem readForm_frame {o : Operand} {f : Byte → State → State}
    (h : Frame regs flags writes (chargeMode o s) (f (operandByte o s) (chargeMode o s))) :
    Frame regs flags writes s (readForm o f s) :=
  (addExcycles_frame _).trans (h.trans (setPc_frame _))

/-- Writing an operand writes the accumulator or memory, whichever the operand is. -/
theorem writeOp_resolve_frame (o : Operand) (v : Byte) :
    Frame (if onAccumulator o then [.a] else []) flags (!onAccumulator o) t (writeOp (resolve o s) v t) := by
  cases o with
  | acc => exact setA_frame (.head _) v
  | imm ll => exact .refl t
  | _ => exact writeByte_frame _ v

theorem storeForm_frame {o : Operand} (h : onAccumulator o = false) (v : Byte) :
    Frame [] flags true s (storeForm o v s) := by
  have hw := writeOp_resolve_frame (flags := flags) (s := s) (t := chargeMode o s) o v
  rw [h] at hw
  exact (addExcycles_frame _).trans (hw.trans (setPc_frame _))

theorem modifyForm_frame (o : Operand) {r p : Byte} (h : ∀ f, f ∉ flags → getFlag p f = getFlag s.p f) :
    Frame (if onAccumulator o then [.a] else []) flags (!onAccumulator o) s (modifyForm o r p s) :=
  (addExcycles_frame _).trans <| (writeOp_resolve_frame o r).trans <|
    (setP_frame fun f hf => by rw [h f hf, writeOp_p]; rfl).trans (setPc_frame _)

theorem shiftForm_frame (g : Byte → Bool → Byte × Bool) (o : Operand) :
    Frame (if onAccumulator o then [.a] else []) [.n, .z, .c] (!onAccumulator o) s (shiftForm g o s) :=
  modifyForm_frame o fun f hf => by simp_all

theorem stepForm_frame (g : Byte → Byte) (o : Operand) :
    Frame (if onAccumulator o then [.a] else []) [.n, .z] (!onAccumulator o) s (stepForm g o s) :=
  modifyForm_frame o fun f hf => by simp_all

/-- An unknown opcode that completes passes one byte and does nothing else (R211). -/
theorem eq_advance_of_execUnk_next {op : Byte} (h : execUnk op s = .next t) : t = advance 1 s := by
  cases hp : s.config.unknownPolicy with
  | skip => cases (execUnk_of_skip hp op).symm.trans h; rfl
  | fault => cases (execUnk_of_fault hp op).symm.trans h

/-- An operand of a mode other than the accumulator's, as every store has (R113 to R116). -/
theorem onAccumulator_eq_false {o : Operand} {modes : List Mode} (ho : modes.contains o.mode = true)
    (hm : modes.contains .acc = false) : onAccumulator o = false := by
  cases o with
  | acc => exact absurd ho (by simpa [Operand.mode] using hm)
  | _ => rfl

/-! ### The frame of every instruction and of the step -/

/-- An instruction that completes changes no more than the rules list for it (R22, R24, R26, R48). -/
theorem exec_frame {i : Instr} (hi : i.wellFormed = true) (h : exec i s = .next t) :
    Frame (writtenRegs i) (writtenFlags i) (mayWriteMemory i) s t := by
  cases i with
  | lda o | ora o | and o | eor o => cases h; exact readForm_frame (loadA_frame (.head _) _)
  | ldx o => cases h; exact readForm_frame (loadX_frame (.head _) _)
  | ldy o => cases h; exact readForm_frame (loadY_frame (.head _) _)
  | adc o | sbc o => cases h; exact readForm_frame (applyAlu_frame _)
  | cmp o | cpx o | cpy o | bit o =>
    cases h; exact readForm_frame (setP_frame fun f hf => by simp_all [writtenFlags])
  | sta o | stx o | sty o | stz o => cases h; exact storeForm_frame (onAccumulator_eq_false hi rfl) _
  | asl o | rol o | lsr o | ror o => cases h; exact shiftForm_frame _ o
  | inc o | dec o => cases h; exact stepForm_frame _ o
  | txa | tya => cases h; exact loadA_frame (.head _) _
  | inx | dex | tax | tsx => cases h; exact loadX_frame (.head _) _
  | iny | dey | tay => cases h; exact loadY_frame (.head _) _
  | bpl d | bmi d | bvc d | bvs d | bcc d | bcs d | bne d | beq d => cases h; exact branch_frame _ d
  | clc | sec | cli | sei | clv | cld | sed =>
    cases h; exact setP_frame fun f hf => by simp_all [writtenFlags]
  | brk => cases h; exact takeTrap_frame _
  | rti => cases h; exact returnFromTrap_frame
  | jsr w => cases h; exact (pushWord_frame (.head _) _).trans (setPc_frame _)
  | rts => cases h; exact (popWord_frame (.head _)).trans (setPc_frame _)
  | jmpAbs w | jmpInd w => cases h; exact setPc_frame _
  | txs => cases h; exact setSp_frame (.head _) _
  | pha | php => cases h; exact push_frame (.head _) _
  | pla => cases h; exact (pop_frame (.tail _ (.head _))).trans (loadA_frame (.head _) _)
  | plp => cases h; exact (pop_frame (.head _)).trans (setP_frame_all _)
  | nop => cases h; exact .refl s
  | unk op => rw [eq_advance_of_execUnk_next h]; exact setPc_frame _

/-- The fetch answers well-formed instructions only (R66). -/
theorem fetchInstr_wellFormed (s : State) : (fetchInstr s).wellFormed = true := by
  have hrow := opcodeRow_correct (readByte s s.pc)
  unfold fetchInstr decodeBytes
  cases hr : opcodeRow (readByte s s.pc) with
  | f0 i => rw [hr] at hrow; exact hrow.1
  | f1 build => rw [hr] at hrow; exact (hrow _).1
  | f2 build => rw [hr] at hrow; exact (hrow _).1

/-- A step changes no more than the rules list for the instruction it fetches. -/
theorem step_frame (h : step s = .next t) :
    Frame (writtenRegs (fetchInstr s)) (writtenFlags (fetchInstr s)) (mayWriteMemory (fetchInstr s)) s t :=
  (setPc_frame _).trans (exec_frame (fetchInstr_wellFormed s) h)

/-! ### Break and Unused (R27) -/

/-- Only BRK, PLP and RTI may write Break or Unused; BRK sets Break, the other two set both. -/
theorem exec_keeps_breakUnused {i : Instr} (hi : i.wellFormed = true) (h : exec i s = .next t)
    (hs : s.p &&& 0x30#8 = 0x30#8) : t.p &&& 0x30#8 = 0x30#8 := by
  have frame := exec_frame hi h
  rw [breakUnused_iff] at hs ⊢
  cases i with
  | plp | rti => cases h; simp
  | brk => cases h; simp [hs.2]
  | _ =>
    rw [frame.flag .b (by simp [writtenFlags]), frame.flag .u (by simp [writtenFlags])]
    exact hs

theorem step_keeps_inv (hs : s.Inv) (h : step s = .next t) : t.Inv :=
  ⟨exec_wf h hs.1, exec_keeps_breakUnused (fetchInstr_wellFormed s) h hs.2⟩

theorem hostReset_inv (hm : Memory.wf s.mem = true) : (hostReset s).Inv := ⟨hm, BitVec.and_self⟩

theorem reachable_inv (h : Reachable s) : s.Inv := by
  induction h with
  | launch hl =>
    obtain ⟨hreset, hm, -, -⟩ := hl
    exact hreset ▸ hostReset_inv hm
  | step _ ht ih => exact step_keeps_inv ih ht
  | reset _ ih => exact hostReset_inv ih.1

/-! ### The counter of extra cycles (R95, R145, R251) -/

theorem resolveCycles_le_one (o : Operand) (s : State) : resolveCycles o s ≤ 1 := by
  unfold resolveCycles
  split
  · unfold pageCrossCharge; split <;> simp
  · simp

theorem branchCycles_le_two (next target : Word) : branchCycles next target ≤ 2 := by
  unfold branchCycles; split <;> simp

theorem branch_excycles_rise (taken : Bool) (d : Byte) (s : State) :
    ∃ n ≤ 2, (branch taken d s).excycles = s.excycles + n := by
  cases taken with
  | false => exact ⟨0, by simp, rfl⟩
  | true => exact ⟨_, branchCycles_le_two _ _, rfl⟩

/-- Extra cycles come from resolving an operand, one at most, and from a taken branch, two at most (R251). -/
theorem exec_excycles_rise {i : Instr} (h : exec i s = .next t) : ∃ n ≤ 2, t.excycles = s.excycles + n := by
  have charged : ∀ o, t.excycles = (chargeMode o s).excycles → ∃ n ≤ 2, t.excycles = s.excycles + n :=
    fun o ho => ⟨resolveCycles o s, (resolveCycles_le_one o s).trans (by simp), ho⟩
  cases i with
  | lda o | ldx o | ldy o | ora o | and o | eor o | adc o | sbc o | cmp o | cpx o | cpy o | bit o =>
    cases h; exact charged o rfl
  | sta o | stx o | sty o | stz o | asl o | rol o | lsr o | ror o | inc o | dec o =>
    cases h; exact charged o (writeOp_excycles ..)
  | bpl d | bmi d | bvc d | bvs d | bcc d | bcs d | bne d | beq d => cases h; exact branch_excycles_rise _ d s
  | unk op => rw [eq_advance_of_execUnk_next h]; exact ⟨0, by simp, rfl⟩
  | _ => cases h; exact ⟨0, by simp, rfl⟩

end Sys2Proof.Machine

namespace Sys2Proof

open Sys2Proof.Machine

/-- Settles O7: memory stays canonical under every write, and only BRK, PLP and RTI touch Break or Unused, to set
them. -/
theorem everyStepKeepsTheInvariant : Obligations.EveryStepKeepsTheInvariant := by
  unfold Obligations.EveryStepKeepsTheInvariant
  exact fun _ _ => step_keeps_inv

/-- Settles O8: no cell is listed after reset, and `P` is `0x30`. -/
theorem resetStateMeetsTheInvariant : Obligations.ResetStateMeetsTheInvariant := by
  unfold Obligations.ResetStateMeetsTheInvariant
  exact ⟨reset_wf, BitVec.and_self⟩

/-- Settles O9: the invariant holds at launch and after a reset, and every step keeps it. -/
theorem reachableStatusHasBreakAndUnusedSet : Obligations.ReachableStatusHasBreakAndUnusedSet := by
  unfold Obligations.ReachableStatusHasBreakAndUnusedSet
  exact fun _ h => (reachable_inv h).2

/-- Settles O12: both are outside the frame of every step, and `hostReset` does not name them. -/
theorem parametersAndProcessorCyclesNeverChange : Obligations.ParametersAndProcessorCyclesNeverChange := by
  unfold Obligations.ParametersAndProcessorCyclesNeverChange
  refine ⟨fun s t h => ?_, fun s => ⟨rfl, rfl, rfl⟩⟩
  have frame := step_frame h
  exact ⟨frame.config, frame.processorCycles⟩

/-- Settles O13: a step adds what its instruction adds, and that is at most two. -/
theorem excyclesNeverFallAndRiseByAtMostTwo : Obligations.ExcyclesNeverFallAndRiseByAtMostTwo := by
  unfold Obligations.ExcyclesNeverFallAndRiseByAtMostTwo
  intro s t h
  obtain ⟨n, hn, ht⟩ := exec_excycles_rise h
  rw [ht, passOpcode_excycles]
  omega

/-- Settles O14: the three clauses are three fields of the frame of every instruction. -/
theorem onlyTheListedInstructionsWriteEachPieceOfState :
    Obligations.OnlyTheListedInstructionsWriteEachPieceOfState := by
  unfold Obligations.OnlyTheListedInstructionsWriteEachPieceOfState
  intro i s t hi h
  have frame := exec_frame hi h
  exact ⟨frame.reg, frame.flag, frame.mem⟩

end Sys2Proof
end

section
/-! Memory (R41 to R44, R54). The numbers of the two word reads, the byte write's frame and what it stores, and a
store onto the next instruction. -/

namespace Sys2Proof.Machine

variable {s t : State} {addr : Word} {v : Byte}

/-! ### Word reads (R42, R43) -/

theorem readWord_toNat (s : State) (addr : Word) :
    (readWord s addr).toNat = (readByte s addr).toNat + 256 * (readByte s (addr + 1#16)).toNat :=
  leWord_toNat _ _

/-- The address of the high byte, as R43 masks it, is the next one within the page. -/
theorem wrapAddr_eq_ofNat (addr : Word) :
    (addr &&& 0xFF00#16) ||| ((addr + 1#16) &&& 0x00FF#16) =
      BitVec.ofNat 16 (addr.toNat / 256 * 256 + (addr.toNat + 1) % 256) := by
  rw [← wrapAddr_toNat, BitVec.ofNat_toNat, BitVec.setWidth_eq]

/-- Where the low byte does not end its page, the next address within the page is the next address. -/
theorem wrapAddr_eq_add_one (h : addr.toNat % 256 ≠ 255) :
    (addr &&& 0xFF00#16) ||| ((addr + 1#16) &&& 0x00FF#16) = addr + 1#16 := by
  apply BitVec.eq_of_toNat_eq
  have hlt := addr.isLt
  rw [wrapAddr_toNat, BitVec.toNat_add, BitVec.toNat_ofNat]
  omega

theorem readWordWrap_toNat (s : State) (addr : Word) :
    (readWordWrap s addr).toNat = (readByte s addr).toNat +
      256 * (readByte s (BitVec.ofNat 16 (addr.toNat / 256 * 256 + (addr.toNat + 1) % 256))).toNat := by
  rw [readWordWrap, leWord_toNat, wrapAddr_eq_ofNat]

theorem readWordWrap_eq_readWord (h : addr.toNat % 256 ≠ 255) : readWordWrap s addr = readWord s addr := by
  rw [readWordWrap, wrapAddr_eq_add_one h, readWord]

/-! ### The byte write (R44) -/

theorem writeByte_onlyTouches (s : State) (addr : Word) (v : Byte) :
    OnlyTouches [] [] [addr] s (writeByte s addr v) :=
  .intro (.inr rfl) (.inr rfl) (.inr rfl) (.inr rfl) (fun _ _ => rfl)
    (fun _ hb => readByte_writeByte_other (List.ne_of_not_mem_cons hb)) rfl rfl

/-! ### A store onto the next instruction (R54) -/

theorem exec_sta_mem {o : Operand} (h : resolve o s = .mem addr) :
    exec (.sta o) s = .next (advance o.mode.operandBytes (writeByte (chargeMode o s) addr s.a)) :=
  congrArg _ (storeForm_mem_eq o addr s.a s h)

/-- After one byte write at `PC`, the fetch decodes that byte as the opcode; the two bytes behind it, at addresses
that differ from `PC` even where they wrap, are as before. -/
theorem fetchInstr_of_write_at_pc (hm : t.mem = Memory.write s.mem t.pc.toNat v) (hwf : Memory.wf s.mem = true) :
    fetchInstr t = decodeBytes v (readByte s (t.pc + 1#16)) (readByte s (t.pc + 2#16)) := by
  have hne1 : t.pc + 1#16 ≠ t.pc := by bv_omega
  have hne2 : t.pc + 2#16 ≠ t.pc := by bv_omega
  rw [fetchInstr, readByte_of_write_same hm hwf, readByte_of_write_other hm hne1, readByte_of_write_other hm hne2]

end Sys2Proof.Machine

namespace Sys2Proof

open Sys2Proof.Machine

/-- Settles O16: STA is one byte write at the `PC` it leaves, and the next fetch reads that byte first. -/
theorem storedByteIsTheNextOpcodeFetched : Obligations.StoredByteIsTheNextOpcodeFetched := by
  unfold Obligations.StoredByteIsTheNextOpcodeFetched
  intro o s hwf hea
  exact ⟨_, exec_sta_mem hea, fetchInstr_of_write_at_pc rfl hwf⟩

/-- Settles O17: the laws of a read after a write, and the frame of the write. -/
theorem memWriteStoresOneByte : Obligations.MemWriteStoresOneByte := by
  unfold Obligations.MemWriteStoresOneByte
  intro s addr v hwf
  exact ⟨readByte_writeByte_same hwf, writeByte_wf hwf, writeByte_onlyTouches s addr v, rfl, rfl⟩

/-- Settles O18: the word of two bytes as a number. -/
theorem wordReadIsLittleEndian : Obligations.WordReadIsLittleEndian := by
  unfold Obligations.WordReadIsLittleEndian
  exact readWord_toNat

/-- Settles O19: the masked address is the next one within the page, and the next one where the page does not end. -/
theorem wrappedWordReadStaysInThePage : Obligations.WrappedWordReadStaysInThePage := by
  unfold Obligations.WrappedWordReadStaysInThePage
  exact fun s addr => ⟨readWordWrap_toNat s addr, readWordWrap_eq_readWord⟩

end Sys2Proof
end

section
/-! The encoding (R60 to R67). The dispatch table is read both ways: `opcodeRow_correct` says that what an entry builds
has the entry's opcode and operand bytes, `opcodeRow_builds` that the entry of an instruction's opcode builds that
instruction from its own operand bytes. Both round trips and the fetch follow from these two. -/

namespace Sys2Proof

open Sys2Proof.Machine

variable {i : Instr} {op : Byte}

/-- An entry of the dispatch table builds `i` from the operand bytes that `i` is encoded with. -/
inductive OpcodeRow.Builds (i : Instr) : OpcodeRow → Prop where
  | f0 (bytes : i.operandBytes = []) : Builds i (.f0 i)
  | f1 {build : Byte → Instr} {ll : Byte} (bytes : i.operandBytes = [ll]) (eq : build ll = i) : Builds i (.f1 build)
  | f2 {build : Word → Instr} {w : Word} (bytes : i.operandBytes = [loByte w, hiByte w]) (eq : build w = i) :
      Builds i (.f2 build)

theorem OpcodeRow.Builds.operandBytes_length_le_two {row : OpcodeRow} (h : row.Builds i) :
    i.operandBytes.length ≤ 2 := by
  cases h with
  | f0 bytes | f1 bytes | f2 bytes => simp [bytes]

/-! ### The unknown opcodes (R65) -/

/-- R65's list is ascending. -/
theorem unknownOpcodes_pairwise_lt : unknownOpcodes.Pairwise (· < ·) := by
  rw [← List.isChain_iff_pairwise]
  simp [unknownOpcodes]

/-- The table has no operand byte for an opcode of R65's list, and builds the unknown opcode. -/
theorem opcodeRow_of_unknown (h : unknownOpcodes.contains op = true) : opcodeRow op = .f0 (.unk op) := by
  have all_rows : unknownOpcodes.map opcodeRow = unknownOpcodes.map fun op => .f0 (.unk op) := rfl
  exact List.map_inj_left.mp all_rows op (by simpa using h)

/-! ### From the instruction to the table -/

/-- The cells of R63's table, mnemonic by mnemonic: a well-formed instruction has an opcode, and the entry of that
opcode builds the instruction. -/
theorem opcodeRow_builds (h : i.wellFormed = true) : ∃ op, i.opcode = some op ∧ (opcodeRow op).Builds i := by
  cases i with
  | lda o | ora o | and o | eor o | adc o | sbc o | cmp o =>
    cases o with
    | acc | zpy ll => cases h
    | imm ll | zp ll | zpx ll | indx ll | indy ll | zpi ll => exact ⟨_, rfl, .f1 rfl rfl⟩
    | abs w | absx w | absy w => exact ⟨_, rfl, .f2 rfl rfl⟩
  | sta o =>
    cases o with
    | acc | imm ll | zpy ll => cases h
    | zp ll | zpx ll | indx ll | indy ll | zpi ll => exact ⟨_, rfl, .f1 rfl rfl⟩
    | abs w | absx w | absy w => exact ⟨_, rfl, .f2 rfl rfl⟩
  | asl o | rol o | lsr o | ror o | inc o | dec o =>
    cases o with
    | acc => exact ⟨_, rfl, .f0 rfl⟩
    | zp ll | zpx ll => exact ⟨_, rfl, .f1 rfl rfl⟩
    | abs w | absx w => exact ⟨_, rfl, .f2 rfl rfl⟩
    | _ => cases h
  | ldx o =>
    cases o with
    | imm ll | zp ll | zpy ll => exact ⟨_, rfl, .f1 rfl rfl⟩
    | abs w | absy w => exact ⟨_, rfl, .f2 rfl rfl⟩
    | _ => cases h
  | ldy o =>
    cases o with
    | imm ll | zp ll | zpx ll => exact ⟨_, rfl, .f1 rfl rfl⟩
    | abs w | absx w => exact ⟨_, rfl, .f2 rfl rfl⟩
    | _ => cases h
  | stx o =>
    cases o with
    | zp ll | zpy ll => exact ⟨_, rfl, .f1 rfl rfl⟩
    | abs w => exact ⟨_, rfl, .f2 rfl rfl⟩
    | _ => cases h
  | sty o =>
    cases o with
    | zp ll | zpx ll => exact ⟨_, rfl, .f1 rfl rfl⟩
    | abs w => exact ⟨_, rfl, .f2 rfl rfl⟩
    | _ => cases h
  | stz o =>
    cases o with
    | zp ll | zpx ll => exact ⟨_, rfl, .f1 rfl rfl⟩
    | abs w | absx w => exact ⟨_, rfl, .f2 rfl rfl⟩
    | _ => cases h
  | cpx o | cpy o =>
    cases o with
    | imm ll | zp ll => exact ⟨_, rfl, .f1 rfl rfl⟩
    | abs w => exact ⟨_, rfl, .f2 rfl rfl⟩
    | _ => cases h
  | bit o =>
    cases o with
    | zp ll => exact ⟨_, rfl, .f1 rfl rfl⟩
    | abs w => exact ⟨_, rfl, .f2 rfl rfl⟩
    | _ => cases h
  | bpl d | bmi d | bvc d | bvs d | bcc d | bcs d | bne d | beq d => exact ⟨_, rfl, .f1 rfl rfl⟩
  | jsr w | jmpAbs w | jmpInd w => exact ⟨_, rfl, .f2 rfl rfl⟩
  | unk op =>
    have hop : unknownOpcodes.contains op = true := h
    refine ⟨op, if_pos hop, ?_⟩
    rw [opcodeRow_of_unknown hop]
    exact .f0 rfl
  | _ => exact ⟨_, rfl, .f0 rfl⟩

theorem encode_of_opcode (h : i.opcode = some op) : encode i = op :: i.operandBytes := by
  simp only [encode, h]

/-- An entry that builds `i` does so in the decoder. -/
theorem decode_of_builds (h : (opcodeRow op).Builds i) (rest : List Byte) :
    decode (op :: (i.operandBytes ++ rest)) = .instr i rest := by
  generalize hrow : opcodeRow op = row at h
  cases h with
  | f0 bytes => simp [decode, hrow, bytes]
  | f1 bytes eq => simp [decode, hrow, bytes, eq]
  | f2 bytes eq => simp [decode, hrow, bytes, eq]

theorem decode_encode (h : i.wellFormed = true) (rest : List Byte) : decode (encode i ++ rest) = .instr i rest := by
  obtain ⟨op, hop, hrow⟩ := opcodeRow_builds h
  rw [encode_of_opcode hop]
  exact decode_of_builds hrow rest

/-- An opcode and two operand bytes are the longest encoding (R60). -/
theorem encode_length_le_three (h : i.wellFormed = true) : (encode i).length ≤ 3 := by
  obtain ⟨op, hop, hrow⟩ := opcodeRow_builds h
  rw [encode_of_opcode hop]
  exact Nat.succ_le_succ hrow.operandBytes_length_le_two

/-! ### From the bytes to the instruction -/

/-- What the decoder answers for an opcode byte is well-formed, has that opcode, and took its operand bytes. -/
theorem decode_correct {bytes rest : List Byte} (h : decode (op :: bytes) = .instr i rest) :
    i.wellFormed = true ∧ i.opcode = some op ∧ bytes = i.operandBytes ++ rest := by
  have hrow := opcodeRow_correct op
  obtain ⟨hr, rfl⟩ | ⟨build, ll, hr, rfl, rfl⟩ | ⟨build, ll, hh, hr, rfl, rfl⟩ := decode_cases h
  · rw [hr] at hrow
    obtain ⟨hwf, hop, hbytes⟩ := hrow
    exact ⟨hwf, hop, by simp [hbytes]⟩
  · rw [hr] at hrow
    obtain ⟨hwf, hop, hbytes⟩ := hrow ll
    exact ⟨hwf, hop, by simp [hbytes]⟩
  · rw [hr] at hrow
    obtain ⟨hwf, hop, hbytes⟩ := hrow (leWord ll hh)
    exact ⟨hwf, hop, by simp [hbytes]⟩

/-- Three bytes are enough for every opcode (R66). -/
theorem decode_three_bytes (op ll hh : Byte) : ∃ rest, decode [op, ll, hh] = .instr (decodeBytes op ll hh) rest := by
  cases hrow : opcodeRow op with
  | f0 i | f1 build | f2 build => simp [decode, decodeBytes, hrow]

theorem decodeBytes_wellFormed (op ll hh : Byte) : (decodeBytes op ll hh).wellFormed = true :=
  have ⟨_, h⟩ := decode_three_bytes op ll hh
  (decode_correct h).1

/-- Three bytes that begin with an encoding decode to the instruction encoded. -/
theorem decodeBytes_of_encode_prefix {ll hh : Byte} (hi : i.wellFormed = true) (h : encode i <+: [op, ll, hh]) :
    decodeBytes op ll hh = i := by
  obtain ⟨rest, hrest⟩ := h
  obtain ⟨rest', hdecode⟩ := decode_three_bytes op ll hh
  rw [← hrest, decode_encode hi] at hdecode
  cases hdecode
  rfl

/-- The bytes that decode to the unknown opcode are those of R65's list. -/
theorem decodeBytes_eq_unk_iff (op ll hh : Byte) :
    decodeBytes op ll hh = .unk op ↔ unknownOpcodes.contains op = true := by
  refine ⟨fun h => ?_, fun h => ?_⟩
  · have hwf := decodeBytes_wellFormed op ll hh
    rw [h] at hwf
    exact hwf
  · rw [decodeBytes, opcodeRow_of_unknown h]

/-! ### The fetch (R80) -/

/-- An encoding that stands at `PC` and at the addresses after it, modulo `0x10000`, begins the three bytes that the
fetch reads. -/
theorem encode_prefix_fetched {s : State} (hi : i.wellFormed = true)
    (h : ∀ (k : Nat) (v : Byte), (encode i)[k]? = some v → readByte s (s.pc + BitVec.ofNat 16 k) = v) :
    encode i <+: [readByte s s.pc, readByte s (s.pc + 1#16), readByte s (s.pc + 2#16)] := by
  rw [List.prefix_iff_getElem?]
  intro k hk
  have hbyte := h k _ (List.getElem?_eq_getElem hk)
  have hk3 : k < 3 := hk.trans_le (encode_length_le_three hi)
  rw [← hbyte]
  interval_cases k
  · simp
  · rfl
  · rfl

end Sys2Proof

namespace Sys2Proof

open Sys2Proof.Machine

/-- Settles O4: the table's entry for the opcode of an instruction builds that instruction from its operand bytes. -/
theorem decodeOfEncodeIsTheInstruction : Obligations.DecodeOfEncodeIsTheInstruction := by
  unfold Obligations.DecodeOfEncodeIsTheInstruction
  exact fun _ rest h => decode_encode h rest

/-- Settles O2: the fetch reads three bytes, which begin with the encoding, and so decode to the instruction. -/
theorem encodedInstructionAtPcIsExecuted : Obligations.EncodedInstructionAtPcIsExecuted := by
  unfold Obligations.EncodedInstructionAtPcIsExecuted
  intro s i hi h
  have hfetch : fetchInstr s = i := decodeBytes_of_encode_prefix hi (encode_prefix_fetched hi h)
  rw [step, hfetch, passOpcode]

/-- Settles O5: every entry of the table builds a well-formed instruction with its own opcode and operand bytes. -/
theorem encodeOfDecodeIsTheBytes : Obligations.EncodeOfDecodeIsTheBytes := by
  unfold Obligations.EncodeOfDecodeIsTheBytes
  intro bytes i rest h
  cases bytes with
  | nil => cases h
  | cons op tail =>
    obtain ⟨hwf, hop, htail⟩ := decode_correct h
    exact ⟨hwf, by rw [encode_of_opcode hop, htail, List.cons_append]⟩

/-- Settles O6: no opcode wants more than two operand bytes, and R65's list is ascending. -/
theorem everyOpcodeDecodesAndNinetyOneAreUnknown : Obligations.EveryOpcodeDecodesAndNinetyOneAreUnknown := by
  unfold Obligations.EveryOpcodeDecodesAndNinetyOneAreUnknown
  refine ⟨fun op ll hh => ?_, rfl, unknownOpcodes_pairwise_lt.imp BitVec.ne_of_lt⟩
  obtain ⟨rest, h⟩ := decode_three_bytes op ll hh
  obtain ⟨-, hop, -⟩ := decode_correct h
  exact ⟨_, rest, h, hop, (decodeBytes_eq_unk_iff op ll hh).symm⟩

/-- Settles O3: the decoder evaluated on the ten words. -/
theorem wordsOfTheOpcodeMapDecode : Obligations.WordsOfTheOpcodeMapDecode := by
  unfold Obligations.WordsOfTheOpcodeMapDecode
  decide

end Sys2Proof
end

section
/-! Addressing modes (R84 to R92), the page-crossing charge (R95), `FlagsNZ` (R98) and the step as an equation (R80).
An index added to a word changes its page exactly when the low byte carries; one added to a zero-page operand
wraps. Each mode's effective address and charge is an equation of the resolver, read as a number by these laws. -/

namespace Sys2Proof.Machine

variable {s : State} {o : Operand} {base ea : Word}

/-! ### An index added to an address, as a number -/

/-- Indexing within page zero wraps and never carries into page one (R85, R86, R90). -/
theorem zext_add_toNat (v w : Byte) : (zext (v + w)).toNat = (v.toNat + w.toNat) % 256 := by
  rw [zext_toNat, BitVec.toNat_add]

theorem add_zext_toNat (w : Word) (b : Byte) : (w + zext b).toNat = (w.toNat + b.toNat) % 65536 := by
  rw [BitVec.toNat_add, zext_toNat]

/-- The addition of an index leaves the page exactly when it carries out of the low byte, at the top of memory too. -/
theorem pageOf_ne_pageOf_add_zext_iff (w : Word) (b : Byte) :
    pageOf w ≠ pageOf (w + zext b) ↔ 255 < w.toNat % 256 + b.toNat := by
  have hw := w.isLt
  have hb := b.isLt
  rw [Ne, pageOf_eq_iff, add_zext_toNat]
  omega

theorem pageCrossCharge_add_zext (addCycles : Bool) (w : Word) (b : Byte) :
    pageCrossCharge addCycles w (w + zext b) =
      if addCycles = true ∧ 255 < w.toNat % 256 + b.toNat then 1 else 0 := by
  simp only [pageCrossCharge, pageOf_ne_pageOf_add_zext_iff]

/-! ### The charge of a mode (R95) -/

theorem resolveCycles_of_baseAddr_none (h : baseAddr o s = none) : resolveCycles o s = 0 := by
  simp only [resolveCycles, h]

theorem resolveCycles_of_baseAddr_some (hbase : baseAddr o s = some base) (hea : resolve o s = .mem ea) :
    resolveCycles o s = pageCrossCharge s.config.addCycles base ea := by
  simp only [resolveCycles, hbase, hea]

/-- A mode that adds an index to a base address charges one cycle when `ADDCYCLES` holds and the low byte carries. -/
theorem resolveCycles_of_index {b : Byte} (hbase : baseAddr o s = some base)
    (hea : resolve o s = .mem (base + zext b)) :
    resolveCycles o s = if s.config.addCycles = true ∧ 255 < base.toNat % 256 + b.toNat then 1 else 0 := by
  rw [resolveCycles_of_baseAddr_some hbase hea, pageCrossCharge_add_zext]

/-! ### A pointer in page zero (R90 to R92) -/

theorem zext_eq_ofNat (b : Byte) : zext b = BitVec.ofNat 16 b.toNat := by
  rw [← zext_toNat, BitVec.ofNat_toNat, BitVec.setWidth_eq]

/-- The page-wrapped read takes both bytes of a zero-page pointer from page zero. -/
theorem readWordWrap_zext_toNat (s : State) (b : Byte) :
    (readWordWrap s (zext b)).toNat = (readByte s (BitVec.ofNat 16 b.toNat)).toNat +
      256 * (readByte s (BitVec.ofNat 16 ((b.toNat + 1) % 256))).toNat := by
  have hpage : b.toNat / 256 = 0 := Nat.div_eq_of_lt b.isLt
  rw [readWordWrap_toNat, zext_toNat, zext_eq_ofNat, hpage, Nat.zero_mul, Nat.zero_add]

/-- The plain read takes the high byte of a pointer at `0xFF` from page one. -/
theorem readWord_zext_toNat (s : State) (b : Byte) :
    (readWord s (zext b)).toNat = (readByte s (BitVec.ofNat 16 b.toNat)).toNat +
      256 * (readByte s (BitVec.ofNat 16 (b.toNat + 1))).toNat := by
  rw [readWord_toNat, zext_eq_ofNat, BitVec.ofNat_add]

/-- The pointer of `(zp,X)` is indexed within page zero before it is read there. -/
theorem readWordWrap_zext_add_toNat (s : State) (v w : Byte) :
    (readWordWrap s (zext (v + w))).toNat = (readByte s (BitVec.ofNat 16 ((v.toNat + w.toNat) % 256))).toNat +
      256 * (readByte s (BitVec.ofNat 16 ((v.toNat + w.toNat + 1) % 256))).toNat := by
  rw [readWordWrap_zext_toNat, BitVec.toNat_add, Nat.mod_add_mod]

/-! ### `FlagsNZ` (R98) -/

/-- Bit 7 of a byte is set from `0x80` on. -/
theorem getLsbD_seven_iff (v : Byte) : v.getLsbD 7 = true ↔ 128 ≤ v.toNat := by
  rw [← BitVec.msb_eq_getLsbD_last v, BitVec.msb_eq_decide, decide_eq_true_iff]

/-! ### The step (R80) -/

/-- The fetch answers what the list decoder answers for the three bytes at `PC`. -/
theorem fetchInstr_of_decode {i : Instr} {rest : List Byte}
    (h : decode [readByte s s.pc, readByte s (s.pc + 1#16), readByte s (s.pc + 2#16)] = .instr i rest) :
    fetchInstr s = i := by
  obtain ⟨_, hthree⟩ := decode_three_bytes (readByte s s.pc) (readByte s (s.pc + 1#16)) (readByte s (s.pc + 2#16))
  cases hthree.symm.trans h
  rfl

theorem step_of_decode {i : Instr} {rest : List Byte}
    (h : decode [readByte s s.pc, readByte s (s.pc + 1#16), readByte s (s.pc + 2#16)] = .instr i rest) :
    step s = exec i (passOpcode s) := by
  rw [step, fetchInstr_of_decode h]

/-- LDA immediate takes the byte after its opcode as its datum (R83, decision D1). -/
theorem decode_lda_imm (ll hh : Byte) : decode [0xA9#8, ll, hh] = .instr (.lda (.imm ll)) [hh] := rfl

theorem exec_lda (o : Operand) (s : State) : exec (.lda o) s = .next (readForm o loadA s) := rfl

end Sys2Proof.Machine

namespace Sys2Proof

open Sys2Proof.Machine

/-- Settles O21: an index carries out of the low byte exactly when the page of the sum differs from the base's. -/
theorem absoluteModesWrapAndChargePageCrossings : Obligations.AbsoluteModesWrapAndChargePageCrossings := by
  unfold Obligations.AbsoluteModesWrapAndChargePageCrossings
  intro hhll s
  exact ⟨hhll + zext s.x, hhll + zext s.y,
    rfl, resolveCycles_of_baseAddr_none rfl,
    rfl, add_zext_toNat hhll s.x, resolveCycles_of_index rfl rfl,
    rfl, add_zext_toNat hhll s.y, resolveCycles_of_index rfl rfl,
    rfl, rfl, rfl⟩

/-- Settles O22: the page-wrapped and the plain word read at a zero-page pointer, and the index law of O21 at the
word that `(zp),Y` reads. -/
theorem indirectModesReadTheirPointers : Obligations.IndirectModesReadTheirPointers := by
  unfold Obligations.IndirectModesReadTheirPointers
  intro ll s
  exact ⟨readWordWrap s (zext (ll + s.x)), readWordWrap s (zext ll), readWordWrap s (zext ll) + zext s.y,
    readWord s (zext ll),
    rfl, readWordWrap_zext_add_toNat s ll s.x, resolveCycles_of_baseAddr_none rfl,
    readWordWrap_zext_toNat s ll,
    rfl, add_zext_toNat _ s.y, resolveCycles_of_index rfl rfl,
    rfl, readWord_zext_toNat s ll, resolveCycles_of_baseAddr_none rfl,
    rfl, rfl, rfl⟩

/-- Settles O23: the opcode and the two bytes after it decode to LDA of the first of them. -/
theorem immediateDatumIsTheByteAfterTheOpcode : Obligations.ImmediateDatumIsTheByteAfterTheOpcode := by
  unfold Obligations.ImmediateDatumIsTheByteAfterTheOpcode
  intro s hop
  have hstep : step s = exec (.lda (.imm (readByte s (s.pc + 1#16)))) (passOpcode s) :=
    step_of_decode (hop ▸ decode_lda_imm _ _)
  rw [hstep, exec_lda]
  exact ⟨_, rfl, rfl, BitVec.add_assoc s.pc 1#16 1#16⟩

/-- Settles O24: the law of every flag after `FlagsNZ`, with bit 7 read as a number. -/
theorem flagsNZWritesZeroAndNegativeOnly : Obligations.FlagsNZWritesZeroAndNegativeOnly := by
  unfold Obligations.FlagsNZWritesZeroAndNegativeOnly
  intro v p
  refine ⟨?_, ?_, fun f hn hz => ?_⟩
  · simp
  · simpa using getLsbD_seven_iff v
  · simp [hn, hz]

/-- Settles O1: the fetch is the list decoder on the three bytes at `PC`. -/
theorem stepRunsTheDecodedInstruction : Obligations.StepRunsTheDecodedInstruction := by
  unfold Obligations.StepRunsTheDecodedInstruction
  exact fun _ _ _ h _ => step_of_decode h

/-- Settles O20: the 8-bit sum of index and operand, zero-extended; the modes have no base for a charge. -/
theorem zeroPageModesStayInPageZero : Obligations.ZeroPageModesStayInPageZero := by
  unfold Obligations.ZeroPageModesStayInPageZero
  intro ll s
  exact ⟨zext ll, zext (s.x + ll), zext (s.y + ll),
    rfl, zext_toNat ll, resolveCycles_of_baseAddr_none rfl,
    rfl, zext_add_toNat s.x ll, resolveCycles_of_baseAddr_none rfl,
    rfl, zext_add_toNat s.y ll, resolveCycles_of_baseAddr_none rfl,
    rfl, rfl, rfl⟩

end Sys2Proof
end

section
/-! Loads and stores (R110 to R116). What `loadA`, `loadX` and `loadY` have in common is one structure; an instruction
that loads a value computed from its operand byte, and one that stores a value, are each described once, for every
instruction of its shape (R99). -/

namespace Sys2Proof.Machine

variable {regs : List Reg} {flags : List Flag} {writes : Bool} {cells : List Word}
variable {s t u : State} {o : Operand} {v p : Byte}

/-! ### From the state after an instruction to the terms of a statement -/

/-- A frame says everything of a statement's frame but which cells are as before. -/
theorem Frame.onlyTouches (h : Frame regs flags writes s t)
    (hm : ∀ addr, addr ∉ cells → readByte t addr = readByte s addr) : OnlyTouches regs flags cells s t :=
  ⟨h.reg, h.flag, hm, h.processorCycles, h.config⟩

theorem Frame.onlyTouches_of_no_write (h : Frame regs flags false s t) : OnlyTouches regs flags cells s t :=
  h.onlyTouches fun addr _ => readByte_of_mem (h.mem rfl) addr

theorem showsNZ_of_flagsNZ (h : t.p = flagsNZ v p) : ShowsNZ v t :=
  ⟨by simp [h], by simp [h]⟩

@[simp] theorem getReg_advance (n : Nat) (s : State) (r : Reg) : getReg (advance n s) r = getReg s r := by
  cases r with
  | a | x | y | sp => rfl

/-- Advancing past the operand bytes is all that moves `PC` after the mode's charge (R96). -/
theorem advance_passesOperand (hpc : u.pc = s.pc) (hcycles : u.excycles = s.excycles + resolveCycles o s) :
    PassesOperand o s (advance o.mode.operandBytes u) :=
  ⟨congrArg (· + BitVec.ofNat 16 o.mode.operandBytes) hpc, hcycles⟩

/-! ### Loads -/

/-- `load` writes a byte to register `r` with `FlagsNZ`, and nothing else. -/
structure LoadsRegister (r : Reg) (load : Byte → State → State) : Prop where
  reg : ∀ v s, getReg (load v s) r = v
  p : ∀ v s, (load v s).p = flagsNZ v s.p
  pc : ∀ v s, (load v s).pc = s.pc
  excycles : ∀ v s, (load v s).excycles = s.excycles
  frame : ∀ v s, Frame [r] [.n, .z] false s (load v s)

theorem loadA_loadsRegister : LoadsRegister .a loadA where
  reg := loadA_a
  p := loadA_p
  pc := loadA_pc
  excycles := loadA_excycles
  frame v _ := loadA_frame (.head _) v

theorem loadX_loadsRegister : LoadsRegister .x loadX where
  reg := loadX_x
  p := loadX_p
  pc := loadX_pc
  excycles := loadX_excycles
  frame v _ := loadX_frame (.head _) v

theorem loadY_loadsRegister : LoadsRegister .y loadY where
  reg := loadY_y
  p := loadY_p
  pc := loadY_pc
  excycles := loadY_excycles
  frame v _ := loadY_frame (.head _) v

/-- An instruction that loads `value` of the state and the operand byte (R99): the charge of the mode and the advance
of `PC` stand before and after the load and touch nothing that it does. -/
theorem loadsResult_of_readForm {i : Operand → Instr} {r : Reg} {value : State → Byte → Byte}
    {load : Byte → State → State} (hload : LoadsRegister r load)
    (hexec : ∀ o s, exec (i o) s = .next (readForm o (fun m => load (value s m)) s)) : LoadsResult i r value := by
  intro o s
  have hframe := readForm_frame (f := fun m => load (value s m)) (hload.frame _ (chargeMode o s))
  exact ⟨_, hexec o s, (getReg_advance ..).trans (hload.reg _ _), showsNZ_of_flagsNZ (hload.p _ _),
    advance_passesOperand (hload.pc _ _) (hload.excycles _ _), hframe.onlyTouches_of_no_write⟩

/-! ### Stores -/

/-- An instruction that stores `value` of the state (R99): at an effective address it is one byte write, between the
charge of the mode and the advance of `PC`. -/
theorem storesValue_of_storeForm {i : Operand → Instr} {value : State → Byte}
    (hexec : ∀ o s, exec (i o) s = .next (storeForm o (value s) s)) : StoresValue i value := by
  intro o s ea hea
  rw [hexec, storeForm_mem_eq o ea (value s) s hea]
  have hframe : Frame [] [] true s (advance o.mode.operandBytes (writeByte (chargeMode o s) ea (value s))) :=
    (addExcycles_frame _).trans ((writeByte_frame ea (value s)).trans (setPc_frame _))
  exact ⟨_, rfl, readByte_of_write_same rfl, advance_passesOperand rfl rfl,
    hframe.onlyTouches fun _ hb => readByte_of_write_other rfl (List.ne_of_not_mem_cons hb)⟩

end Sys2Proof.Machine

namespace Sys2Proof

open Sys2Proof.Machine

/-- Settles O25: each of the three is the reading shape with its register's load of the operand byte itself. -/
theorem loadsCopyTheOperandByte : Obligations.LoadsCopyTheOperandByte := by
  unfold Obligations.LoadsCopyTheOperandByte
  exact ⟨loadsResult_of_readForm loadA_loadsRegister fun _ _ => rfl,
    loadsResult_of_readForm loadX_loadsRegister fun _ _ => rfl,
    loadsResult_of_readForm loadY_loadsRegister fun _ _ => rfl⟩

/-- Settles O26: each of the four is the storing shape with its own byte. -/
theorem storesWriteOneByteAndNothingElse : Obligations.StoresWriteOneByteAndNothingElse := by
  unfold Obligations.StoresWriteOneByteAndNothingElse
  exact ⟨storesValue_of_storeForm fun _ _ => rfl, storesValue_of_storeForm fun _ _ => rfl,
    storesValue_of_storeForm fun _ _ => rfl, storesValue_of_storeForm fun _ _ => rfl⟩

end Sys2Proof
end

section
/-! Logic, shifts and rotates (R120 to R126). The logic instructions are the reading shape of the loads. An instruction
that rewrites its operand (R48, R99) is described once, for the accumulator and for memory, by what it makes of the
operand byte and of `P`; a shift or rotate is one whose new `P` has the bit shifted out as the carry. What is left
of each is its byte as a number. -/

namespace Sys2Proof.Machine

variable {i : Operand → Instr} {flags : List Flag} {rel : Byte → Byte → Byte → Byte → Prop}

/-! ### Instructions that rewrite their operand -/

/-- An instruction that rewrites its operand byte `v`, under the status `p`, to `result v p` and the status to
`status v p`, whatever the operand is: `rel` has to hold of these bytes alone. -/
theorem rewritesOperand_of_modifyForm {result status : Byte → Byte → Byte}
    (hexec : ∀ o s, exec (i o) s =
      .next (modifyForm o (result (operandByte o s) s.p) (status (operandByte o s) s.p) s))
    (hnz : ∀ v p, ∃ q, status v p = flagsNZ (result v p) q)
    (hflags : ∀ v p f, f ∉ flags → getFlag (status v p) f = getFlag p f)
    (hrel : ∀ v p, rel v (result v p) p (status v p)) : RewritesOperand i flags rel := by
  refine ⟨fun s => ?acc, fun o s ea hea => ?mem⟩
  case acc =>
    obtain ⟨_, hp⟩ := hnz s.a s.p
    exact ⟨_, hexec .acc s, hrel s.a s.p, showsNZ_of_flagsNZ hp, ⟨BitVec.add_zero _, rfl⟩,
      (modifyForm_frame .acc (hflags s.a s.p)).onlyTouches_of_no_write⟩
  case mem =>
    rw [hexec, operandByte_mem o ea s hea, modifyForm_mem_eq o ea _ _ s hea]
    obtain ⟨_, hp⟩ := hnz (readByte s ea) s.p
    have hframe : Frame [] flags true s (advance o.mode.operandBytes
        ((writeByte (chargeMode o s) ea (result (readByte s ea) s.p)).setP (status (readByte s ea) s.p))) :=
      (addExcycles_frame _).trans <| (writeByte_frame ea _).trans <|
        (setP_frame (s := writeByte (chargeMode o s) ea _) (hflags (readByte s ea) s.p)).trans (setPc_frame _)
    exact ⟨_, _, rfl, hrel (readByte s ea) s.p, showsNZ_of_flagsNZ hp, readByte_of_write_same rfl,
      advance_passesOperand rfl rfl,
      hframe.onlyTouches fun _ hb => readByte_of_write_other rfl (List.ne_of_not_mem_cons hb)⟩

/-- A shift or rotate by `f` rewrites its operand: the carry becomes the bit that `f` shifts out, N is bit 7 of the
result, and `rel` has to follow from these. -/
theorem rewritesOperand_of_shiftForm {f : Byte → Bool → Byte × Bool}
    (hexec : ∀ o s, exec (i o) s = .next (shiftForm f o s))
    (hrel : ∀ v p q, getFlag q .c = (f v (getFlag p .c)).2 → getFlag q .n = (f v (getFlag p .c)).1.getLsbD 7 →
      rel v (f v (getFlag p .c)).1 p q) : RewritesOperand i [.c, .n, .z] rel :=
  rewritesOperand_of_modifyForm (result := fun v p => (f v (getFlag p .c)).1)
    (status := fun v p => flagsNZ (f v (getFlag p .c)).1 (putFlag p .c (f v (getFlag p .c)).2))
    hexec (fun _ _ => ⟨_, rfl⟩) (fun _ _ _ hf => by simp_all) (fun v p => hrel v p _ (by simp) (by simp))

/-! ### The byte shifted, as a number -/

theorem aslByte_toNat (v : Byte) (carry : Bool) : (aslByte v carry).1.toNat = 2 * v.toNat % 256 := by
  rw [aslByte, BitVec.toNat_shiftLeft, Nat.shiftLeft_eq, Nat.mul_comm]

theorem lsrByte_toNat (v : Byte) (carry : Bool) : (lsrByte v carry).1.toNat = v.toNat / 2 := by
  rw [lsrByte, BitVec.toNat_ushiftRight, Nat.shiftRight_eq_div_pow]

/-- A shift to the left leaves bit 0 free for the carry. -/
theorem shiftLeft_one_and_carry_eq_zero (v : Byte) (carry : Bool) :
    v <<< 1 &&& BitVec.ofNat 8 (bitNat carry) = 0#8 := by
  cases carry with
  | false => exact BitVec.and_zero
  | true => exact (BitVec.and_twoPow _ 0).trans (if_neg (by simp))

/-- A shift to the right leaves bit 7 free for the carry. -/
theorem ushiftRight_one_and_carry_eq_zero (v : Byte) (carry : Bool) :
    v >>> 1 &&& BitVec.ofNat 8 (bitNat carry * 128) = 0#8 := by
  cases carry with
  | false => exact BitVec.and_zero
  | true => exact (BitVec.and_twoPow _ 7).trans (if_neg (by simp))

theorem rolByte_toNat (v : Byte) (carry : Bool) :
    (rolByte v carry).1.toNat = (2 * v.toNat + bitNat carry) % 256 := by
  rw [rolByte, ← BitVec.add_eq_or_of_and_eq_zero _ _ (shiftLeft_one_and_carry_eq_zero v carry),
    BitVec.toNat_add, BitVec.toNat_shiftLeft, Nat.shiftLeft_eq, BitVec.toNat_ofNat]
  omega

theorem rorByte_toNat (v : Byte) (carry : Bool) :
    (rorByte v carry).1.toNat = v.toNat / 2 + 128 * bitNat carry := by
  rw [rorByte, ← BitVec.add_eq_or_of_and_eq_zero _ _ (ushiftRight_one_and_carry_eq_zero v carry),
    BitVec.toNat_add_of_and_eq_zero (ushiftRight_one_and_carry_eq_zero v carry), BitVec.toNat_ushiftRight,
    Nat.shiftRight_eq_div_pow, BitVec.toNat_ofNat]
  cases carry <;> simp [bitNat]

/-- Bit 7 of the byte halved is 0 (R125, decision D11). -/
theorem lsrByte_getLsbD_seven (v : Byte) (carry : Bool) : (lsrByte v carry).1.getLsbD 7 = false := by
  simp [lsrByte]

end Sys2Proof.Machine

namespace Sys2Proof

open Sys2Proof.Machine

/-- Settles O28: each is a shift or rotate that shifts bit 7 out, with its byte as a number. -/
theorem shiftsLeftMoveBitSevenToCarry : Obligations.ShiftsLeftMoveBitSevenToCarry := by
  unfold Obligations.ShiftsLeftMoveBitSevenToCarry
  exact ⟨rewritesOperand_of_shiftForm (fun _ _ => rfl) fun _ _ _ hc _ => ⟨aslByte_toNat _ _, hc⟩,
    rewritesOperand_of_shiftForm (fun _ _ => rfl) fun _ _ _ hc _ => ⟨rolByte_toNat _ _, hc⟩⟩

/-- Settles O29: each is a shift or rotate that shifts bit 0 out, with its byte as a number; LSR's N is bit 7 of the
byte halved. -/
theorem shiftsRightMoveBitZeroToCarry : Obligations.ShiftsRightMoveBitZeroToCarry := by
  unfold Obligations.ShiftsRightMoveBitZeroToCarry
  exact ⟨rewritesOperand_of_shiftForm (fun _ _ => rfl) fun _ _ _ hc hn =>
      ⟨lsrByte_toNat _ _, hc, hn.trans (lsrByte_getLsbD_seven _ _)⟩,
    rewritesOperand_of_shiftForm (fun _ _ => rfl) fun _ _ _ hc _ => ⟨rorByte_toNat _ _, hc⟩⟩

/-- Settles O27: each is the reading shape with the load of `A` combined with the operand byte. -/
theorem logicCombinesTheAccumulator : Obligations.LogicCombinesTheAccumulator := by
  unfold Obligations.LogicCombinesTheAccumulator
  exact ⟨loadsResult_of_readForm loadA_loadsRegister fun _ _ => rfl,
    loadsResult_of_readForm loadA_loadsRegister fun _ _ => rfl,
    loadsResult_of_readForm loadA_loadsRegister fun _ _ => rfl⟩

end Sys2Proof
end

section
/-! Increment, decrement, compare and bit test (R130 to R139). INC and DEC rewrite their operand as the shifts do, with
the old carry kept; INX, INY, DEX and DEY are the loads of the index registers without an operand; CMP, CPX, CPY and
BIT only compute `P` from their operand byte. Each of the three shapes is described once. -/

namespace Sys2Proof.Machine

variable {flags : List Flag}

/-! ### One more and one less, modulo 256 -/

theorem add_one_toNat (v : Byte) : (v + 1#8).toNat = (v.toNat + 1) % 256 := BitVec.toNat_add v 1#8

theorem sub_one_toNat (v : Byte) : (v - 1#8).toNat = (v.toNat + 255) % 256 := by
  rw [BitVec.toNat_sub, Nat.add_comm, BitVec.toNat_ofNat]

theorem add_one_eq_ofNat (v : Byte) : v + 1#8 = BitVec.ofNat 8 (v.toNat + 1) :=
  BitVec.eq_of_toNat_eq ((add_one_toNat v).trans (BitVec.toNat_ofNat _ 8).symm)

theorem sub_one_eq_ofNat (v : Byte) : v - 1#8 = BitVec.ofNat 8 (v.toNat + 255) :=
  BitVec.eq_of_toNat_eq ((sub_one_toNat v).trans (BitVec.toNat_ofNat _ 8).symm)

/-! ### Increments and decrements -/

/-- An increment or decrement of an operand is a rewriting one whose new `P` is `FlagsNZ` over the old `P`, so C and V
are kept (R130, R131); its byte is all there is to show. -/
theorem rewritesOperand_of_stepForm {i : Operand → Instr} {f : Byte → Byte} {number : Nat → Nat}
    (hexec : ∀ o s, exec (i o) s = .next (stepForm f o s)) (hf : ∀ v, (f v).toNat = number v.toNat) :
    RewritesOperand i [.n, .z] (fun v r _ _ => r.toNat = number v.toNat) :=
  rewritesOperand_of_modifyForm (result := fun v _ => f v) (status := fun v p => flagsNZ (f v) p)
    hexec (fun _ _ => ⟨_, rfl⟩) (fun _ _ _ hg => by simp_all) (fun v _ => hf v)

/-- An instruction without an operand that loads `value` of the state (R99). -/
theorem setsRegister_of_load {i : Instr} {r : Reg} {load : Byte → State → State} {value : State → Byte}
    (hload : LoadsRegister r load) (hexec : ∀ s, exec i s = .next (load (value s) s)) : SetsRegister i r value :=
  fun s => ⟨_, hexec s, hload.reg _ s, showsNZ_of_flagsNZ (hload.p _ s), ⟨hload.pc _ s, hload.excycles _ s⟩,
    (hload.frame _ s).onlyTouches_of_no_write⟩

/-! ### Instructions that write flags only -/

@[simp] theorem readForm_setP_p (o : Operand) (status : Byte → Byte) (s : State) :
    (readForm o (fun m t => t.setP (status m)) s).p = status (operandByte o s) := rfl

/-- Computing `P` from the operand byte passes the operand and touches the flags written, whichever they are (R99). -/
theorem readForm_setP_passesOperand_onlyTouches {o : Operand} {s : State} {status : Byte → Byte}
    (h : ∀ f, f ∉ flags → getFlag (status (operandByte o s)) f = getFlag s.p f) :
    PassesOperand o s (readForm o (fun m t => t.setP (status m)) s) ∧
      OnlyTouches [] flags [] s (readForm o (fun m t => t.setP (status m)) s) := by
  have hframe : Frame [] flags false s (readForm o (fun m t => t.setP (status m)) s) :=
    readForm_frame (setP_frame h)
  exact ⟨advance_passesOperand rfl rfl, hframe.onlyTouches_of_no_write⟩

/-- N of a comparison is bit 7 of the wrapped difference, as a number (R136). -/
theorem sub_getLsbD_seven_iff (r m : Byte) :
    (r - m).getLsbD 7 = true ↔ 128 ≤ (r.toNat + 256 - m.toNat) % 256 := by
  have hm := m.isLt
  rw [getLsbD_seven_iff, BitVec.toNat_sub]
  omega

/-- An instruction that compares `value` of the state with its operand byte (R136 to R138). -/
theorem compares_of_readForm {i : Operand → Instr} {value : State → Byte}
    (hexec : ∀ o s, exec (i o) s = .next (readForm o (fun m t => t.setP (flagsCompare (value s) m s.p)) s)) :
    Compares i value := by
  intro o s
  refine ⟨_, hexec o s, ?carry, ?zero, ?negative,
    readForm_setP_passesOperand_onlyTouches fun f hf => by simp_all⟩
  case carry => simp
  case zero => simp
  case negative => simpa using sub_getLsbD_seven_iff (value s) (operandByte o s)

end Sys2Proof.Machine

namespace Sys2Proof

open Sys2Proof.Machine

/-- Settles O30: each is a step of its operand by one, with its byte as a number. -/
theorem incAndDecWrapAndLeaveCarry : Obligations.IncAndDecWrapAndLeaveCarry := by
  unfold Obligations.IncAndDecWrapAndLeaveCarry
  exact ⟨rewritesOperand_of_stepForm (number := fun n => (n + 1) % 256) (fun _ _ => rfl) add_one_toNat,
    rewritesOperand_of_stepForm (number := fun n => (n + 255) % 256) (fun _ _ => rfl) sub_one_toNat⟩

/-- Settles O31: each loads its index register with that register plus or minus one. -/
theorem indexRegistersStepByOne : Obligations.IndexRegistersStepByOne := by
  unfold Obligations.IndexRegistersStepByOne
  simp only [← add_one_eq_ofNat, ← sub_one_eq_ofNat]
  exact ⟨setsRegister_of_load loadX_loadsRegister fun _ => rfl, setsRegister_of_load loadY_loadsRegister fun _ => rfl,
    setsRegister_of_load loadX_loadsRegister fun _ => rfl, setsRegister_of_load loadY_loadsRegister fun _ => rfl⟩

/-- Settles O32: each compares its own register with the operand byte. -/
theorem comparesWriteCarryZeroNegativeOnly : Obligations.ComparesWriteCarryZeroNegativeOnly := by
  unfold Obligations.ComparesWriteCarryZeroNegativeOnly
  exact ⟨compares_of_readForm fun _ _ => rfl, compares_of_readForm fun _ _ => rfl,
    compares_of_readForm fun _ _ => rfl⟩

/-- Settles O33: BIT writes flags only, and each of them is read off its law. -/
theorem bitTestCopiesBitsSevenAndSix : Obligations.BitTestCopiesBitsSevenAndSix := by
  unfold Obligations.BitTestCopiesBitsSevenAndSix
  intro o s
  refine ⟨readForm o (fun m t => t.setP (flagsBit s.a m s.p)) s, rfl, ?zero, ?negative, ?overflow,
    readForm_setP_passesOperand_onlyTouches fun f hf => by simp_all⟩
  case zero => simp
  case negative => simp
  case overflow => simp

end Sys2Proof
end

section
/-! Branches and flag instructions (R145 to R160). A branch is described once, over the condition it tests; BCL and BST
are that condition with the flag's value false and true. A flag instruction is one write of `P`, and clearing or
setting a flag is the write of false or of true. -/

namespace Sys2Proof.Machine

variable {f : Flag}

/-! ### Branches -/

/-- The rule's target (R93) as the signed displacement from the address after the displacement byte. -/
theorem branch_true_pc (d : Byte) (s : State) : (branch true d s).pc = s.pc + 1#16 + d.signExtend 16 :=
  branchTarget_eq (s.pc + 1#16) d

/-- A taken branch charges by the page it arrives in (R93), whatever `ADDCYCLES` is (decision D10). -/
theorem branch_true_excycles (d : Byte) (s : State) :
    (branch true d s).excycles =
      s.excycles + if pageOf (s.pc + 1#16) = pageOf (branch true d s).pc then 1 else 2 := rfl

/-- An instruction that is `Branch` on a test of `P`, where the test says that the flag has the value (R145). -/
theorem branchesWhen_of_branch {i : Byte → Instr} {value : Bool} {taken : Byte → Bool}
    (hexec : ∀ d s, exec (i d) s = .next (branch (taken s.p) d s))
    (htaken : ∀ p, taken p = true ↔ getFlag p f = value) : BranchesWhen i f value := by
  intro d s
  refine ⟨_, hexec d s, fun hflag => ?taken, fun hflag => ?passed, (branch_frame _ d).onlyTouches_of_no_write⟩
  case taken =>
    rw [(htaken s.p).mpr hflag]
    exact ⟨branch_true_pc d s, branch_true_excycles d s⟩
  case passed =>
    rw [Bool.eq_false_iff.mpr (mt (htaken s.p).mp hflag)]
    exact ⟨rfl, rfl⟩

theorem branchesWhen_of_branchOnClear {i : Byte → Instr}
    (hexec : ∀ d s, exec (i d) s = .next (branchOnClear f d s)) : BranchesWhen i f false :=
  branchesWhen_of_branch (taken := fun p => maskClear p f) hexec fun p => by simp

theorem branchesWhen_of_branchOnSet {i : Byte → Instr}
    (hexec : ∀ d s, exec (i d) s = .next (branchOnSet f d s)) : BranchesWhen i f true :=
  branchesWhen_of_branch (taken := fun p => !maskClear p f) hexec fun p => by simp

/-! ### Flag instructions -/

/-- An instruction that puts a value in one flag of `P`; the frame is that of a write of `P`. -/
theorem writesFlag_of_putFlag {i : Instr} {value : Bool}
    (hexec : ∀ s, exec i s = .next (s.setP (putFlag s.p f value))) : WritesFlag i f value := by
  intro s
  have hframe : Frame [] [f] false s (s.setP (putFlag s.p f value)) := setP_frame fun g hg => by simp_all
  exact ⟨_, hexec s, by simp, ⟨rfl, rfl⟩, hframe.onlyTouches_of_no_write⟩

end Sys2Proof.Machine

namespace Sys2Proof

open Sys2Proof.Machine

/-- Settles O34: each branch is BCL or BST on its own flag. -/
theorem branchesGoToTheirTargets : Obligations.BranchesGoToTheirTargets := by
  unfold Obligations.BranchesGoToTheirTargets
  exact ⟨branchesWhen_of_branchOnClear fun _ _ => rfl, branchesWhen_of_branchOnSet fun _ _ => rfl,
    branchesWhen_of_branchOnClear fun _ _ => rfl, branchesWhen_of_branchOnSet fun _ _ => rfl,
    branchesWhen_of_branchOnClear fun _ _ => rfl, branchesWhen_of_branchOnSet fun _ _ => rfl,
    branchesWhen_of_branchOnClear fun _ _ => rfl, branchesWhen_of_branchOnSet fun _ _ => rfl⟩

/-- Settles O35: each puts false or true in its own flag. -/
theorem flagInstructionsWriteOneFlag : Obligations.FlagInstructionsWriteOneFlag := by
  unfold Obligations.FlagInstructionsWriteOneFlag
  exact ⟨writesFlag_of_putFlag fun _ => rfl, writesFlag_of_putFlag fun _ => rfl,
    writesFlag_of_putFlag fun _ => rfl, writesFlag_of_putFlag fun _ => rfl,
    writesFlag_of_putFlag fun _ => rfl, writesFlag_of_putFlag fun _ => rfl,
    writesFlag_of_putFlag fun _ => rfl⟩

end Sys2Proof
end

section
/-! Add and subtract with carry (R170 to R175). The two instructions write what their unit answers; that is said once.
What is left is the unit: the binary sum and difference as numbers, signed and unsigned, and the decimal ones digit by
digit. -/

namespace Sys2Proof.Machine

variable {o : Operand} {s t : State} {r : AluResult} {a m : Byte} {c : Bool} {lo hi n0 n1 : Nat}

/-! ### From the unit to the state -/

/-- From `s` to `t` the accumulator and N, V, Z and C become those of `r`, the operand `o` is passed, and nothing else
changes. -/
structure AppliesAlu (r : AluResult) (o : Operand) (s t : State) : Prop where
  acc : t.a = r.acc
  n : getFlag t.p .n = r.n
  v : getFlag t.p .v = r.v
  z : getFlag t.p .z = r.z
  c : getFlag t.p .c = r.c
  passes : PassesOperand o s t
  touches : OnlyTouches [.a] [.n, .v, .z, .c] [] s t

theorem readForm_appliesAlu (result : Byte → AluResult) (o : Operand) (s : State) :
    AppliesAlu (result (operandByte o s)) o s (readForm o (fun m => applyAlu (result m)) s) where
  acc := rfl
  n := by simp [readForm_eq]
  v := by simp [readForm_eq]
  z := by simp [readForm_eq]
  c := by simp [readForm_eq]
  passes := advance_passesOperand rfl rfl
  touches := (readForm_frame (applyAlu_frame _)).onlyTouches_of_no_write

theorem AppliesAlu.showsNZ (h : AppliesAlu r o s t) (hn : r.n = r.acc.getLsbD 7) (hz : r.z = (r.acc == 0x00#8)) :
    ShowsNZ t.a t := by
  rw [ShowsNZ, h.z, h.n, h.acc, hz, beq_iff_eq]
  exact ⟨Iff.rfl, hn⟩

theorem exec_adc (o : Operand) (s : State) :
    ∃ t, exec (.adc o) s = .next t ∧ AppliesAlu (adcResult s.a (operandByte o s) s.p) o s t :=
  ⟨_, rfl, readForm_appliesAlu (fun m => adcResult s.a m s.p) o s⟩

theorem exec_sbc (o : Operand) (s : State) :
    ∃ t, exec (.sbc o) s = .next t ∧ AppliesAlu (sbcResult s.a (operandByte o s) s.p) o s t :=
  ⟨_, rfl, readForm_appliesAlu (fun m => sbcResult s.a m s.p) o s⟩

theorem adcResult_of_binary {p : Byte} (h : getFlag p .d = false) (a m : Byte) :
    adcResult a m p = adcBinary a m (getFlag p .c) := by
  simp [adcResult, h]

theorem adcResult_of_decimal {p : Byte} (h : getFlag p .d = true) (a m : Byte) :
    adcResult a m p = adcDecimal a m (getFlag p .c) := by
  simp [adcResult, h]

theorem sbcResult_of_binary {p : Byte} (h : getFlag p .d = false) (a m : Byte) :
    sbcResult a m p = sbcBinary a m (getFlag p .c) := by
  simp [sbcResult, h]

theorem sbcResult_of_decimal {p : Byte} (h : getFlag p .d = true) (a m : Byte) :
    sbcResult a m p = sbcDecimal a m (getFlag p .c) := by
  simp [sbcResult, h]

/-! ### Bytes, nibbles and the carry as numbers -/

theorem bitNat_le_one (b : Bool) : bitNat b ≤ 1 := by
  cases b with
  | false | true => decide

theorem bitNat_not (b : Bool) : bitNat (!b) = 1 - bitNat b := by
  cases b with
  | false | true => rfl

theorem not_toNat (m : Byte) : (~~~m).toNat = 255 - m.toNat := BitVec.toNat_not

theorem toInt_eq_toNat_sub (b : Byte) : b.toInt = b.toNat - if 128 ≤ b.toNat then 256 else 0 := by
  rw [BitVec.toInt_eq_toNat_cond]
  omega

theorem toNat_eq_nibbles (b : Byte) : b.toNat = highNibble b * 16 + lowNibble b :=
  (Nat.div_add_mod' b.toNat 16).symm

theorem nibblePair_toNat (hi lo : Nat) : (nibblePair hi lo).toNat = hi % 16 * 16 + lo % 16 := by
  rw [nibblePair, BitVec.toNat_ofNat]
  omega

theorem lowNibble_nibblePair (hi lo : Nat) : lowNibble (nibblePair hi lo) = lo % 16 := by
  rw [lowNibble, nibblePair_toNat]
  omega

theorem highNibble_nibblePair (hi lo : Nat) : highNibble (nibblePair hi lo) = hi % 16 := by
  rw [highNibble, nibblePair_toNat]
  omega

theorem lowNibble_not (m : Byte) : lowNibble (~~~m) = 15 - lowNibble m := by
  have hm := m.isLt
  rw [lowNibble, lowNibble, not_toNat]
  omega

theorem highNibble_not (m : Byte) : highNibble (~~~m) = 15 - highNibble m := by
  have hm := m.isLt
  rw [highNibble, highNibble, not_toNat]
  omega

theorem eq_zero_iff_toNat (b : Byte) : (b == 0x00#8) = true ↔ b.toNat = 0 := by
  rw [beq_iff_eq, BitVec.toNat_eq]
  rfl

/-! ### The overflow tests (R171, R174) -/

/-- A test with the mask `0x80` reads bit 7. -/
theorem and_mask_seven_ne_zero (x : Byte) : (x &&& 0x80#8 != 0x00#8) = x.getLsbD 7 := by
  rw [show x &&& 0x80#8 = _ from BitVec.and_twoPow x 7]
  cases x.getLsbD 7 with
  | false | true => rfl

/-- ADC's test: the operands share a sign, which the result does not have. -/
theorem addOverflow_iff (a m r : Byte) :
    (~~~(a ^^^ m) &&& (a ^^^ r) &&& 0x80#8 != 0x00#8) = true ↔
      (128 ≤ a.toNat ↔ 128 ≤ m.toNat) ∧ ¬(128 ≤ a.toNat ↔ 128 ≤ r.toNat) := by
  rw [and_mask_seven_ne_zero, ← getLsbD_seven_iff, ← getLsbD_seven_iff, ← getLsbD_seven_iff,
    ← Bool.eq_iff_iff, ← Bool.eq_iff_iff]
  simp

/-- SBC's test: the operands differ in sign, and the result does not have the sign of the minuend. -/
theorem subOverflow_iff (a m r : Byte) :
    ((a ^^^ m) &&& (a ^^^ r) &&& 0x80#8 != 0x00#8) = true ↔
      ¬(128 ≤ a.toNat ↔ 128 ≤ m.toNat) ∧ ¬(128 ≤ a.toNat ↔ 128 ≤ r.toNat) := by
  rw [and_mask_seven_ne_zero, ← getLsbD_seven_iff, ← getLsbD_seven_iff, ← getLsbD_seven_iff,
    ← Bool.eq_iff_iff, ← Bool.eq_iff_iff]
  simp

/-! ### The binary sum and difference (R171, R174) -/

theorem adcBinary_acc_toNat (a m : Byte) (c : Bool) :
    (adcBinary a m c).acc.toNat = (a.toNat + m.toNat + bitNat c) % 256 := BitVec.toNat_ofNat _ 8

theorem adcBinary_c_iff (a m : Byte) (c : Bool) :
    (adcBinary a m c).c = true ↔ 255 < a.toNat + m.toNat + bitNat c := decide_eq_true_iff

/-- Operands of one sign whose sum has the other sign are those whose signed sum is out of range. -/
theorem adcBinary_v_iff (a m : Byte) (c : Bool) :
    (adcBinary a m c).v = true ↔
      a.toInt + m.toInt + bitNat c < -128 ∨ 127 < a.toInt + m.toInt + bitNat c := by
  have ha := a.isLt
  have hm := m.isLt
  have hc := bitNat_le_one c
  refine (addOverflow_iff a m (adcBinary a m c).acc).trans ?_
  rw [adcBinary_acc_toNat, toInt_eq_toNat_sub, toInt_eq_toNat_sub]
  omega

theorem sbcBinary_acc_toNat (a m : Byte) (c : Bool) :
    (sbcBinary a m c).acc.toNat = (a.toNat + 255 - m.toNat + bitNat c) % 256 := by
  have hm := m.isLt
  refine (BitVec.toNat_ofNat _ 8).trans ?_
  rw [not_toNat]
  omega

theorem sbcBinary_c_iff (a m : Byte) (c : Bool) :
    (sbcBinary a m c).c = true ↔ m.toNat + 1 ≤ a.toNat + bitNat c := by
  have hm := m.isLt
  refine decide_eq_true_iff.trans ?_
  rw [not_toNat]
  omega

theorem sbcBinary_n_iff (a m : Byte) (c : Bool) :
    (sbcBinary a m c).n = true ↔ 128 ≤ (sbcBinary a m c).acc.toNat := getLsbD_seven_iff _

theorem sbcBinary_z_iff (a m : Byte) (c : Bool) :
    (sbcBinary a m c).z = true ↔ (sbcBinary a m c).acc.toNat = 0 := eq_zero_iff_toNat _

/-- Operands of two signs whose difference has the subtrahend's sign are those whose signed difference is out of
range. -/
theorem sbcBinary_v_iff (a m : Byte) (c : Bool) :
    (sbcBinary a m c).v = true ↔
      a.toInt - m.toInt - 1 + bitNat c < -128 ∨ 127 < a.toInt - m.toInt - 1 + bitNat c := by
  have ha := a.isLt
  have hm := m.isLt
  have hc := bitNat_le_one c
  refine (subOverflow_iff a m (sbcBinary a m c).acc).trans ?_
  rw [sbcBinary_acc_toNat, toInt_eq_toNat_sub, toInt_eq_toNat_sub]
  omega

/-! ### The decimal sum (R172, decision D13) -/

section

variable (hlo : lo = lowNibble a + lowNibble m + bitNat c)
variable (hhi : hi = highNibble a + highNibble m + if 9 < lo then 1 else 0)
include hlo hhi

/-- The unit answers the pair of nibble sums corrected by 6 where they exceed 9, with the flags of the pair that is not
corrected. -/
theorem adcDecimal_eq :
    adcDecimal a m c =
      { acc := nibblePair (hi + if 9 < hi then 6 else 0) (lo + if 9 < lo then 6 else 0)
        n := (nibblePair hi lo).getLsbD 7
        v := (~~~(a ^^^ m) &&& (a ^^^ nibblePair hi lo) &&& 0x80#8) != 0x00#8
        z := nibblePair hi lo == 0x00#8
        c := decide (9 < hi) } := by
  subst hlo hhi
  rfl

theorem adcDecimal_acc :
    (adcDecimal a m c).acc = nibblePair (hi + if 9 < hi then 6 else 0) (lo + if 9 < lo then 6 else 0) := by
  rw [adcDecimal_eq hlo hhi]

theorem adcDecimal_n_iff : (adcDecimal a m c).n = true ↔ 128 ≤ hi % 16 * 16 + lo % 16 := by
  rw [adcDecimal_eq hlo hhi, getLsbD_seven_iff, nibblePair_toNat]

theorem adcDecimal_v_iff :
    (adcDecimal a m c).v = true ↔
      (128 ≤ a.toNat ↔ 128 ≤ m.toNat) ∧ ¬(128 ≤ a.toNat ↔ 128 ≤ hi % 16 * 16 + lo % 16) := by
  rw [adcDecimal_eq hlo hhi, addOverflow_iff, nibblePair_toNat]

theorem adcDecimal_z_iff : (adcDecimal a m c).z = true ↔ hi % 16 * 16 + lo % 16 = 0 := by
  rw [adcDecimal_eq hlo hhi, eq_zero_iff_toNat, nibblePair_toNat]

theorem adcDecimal_c_iff : (adcDecimal a m c).c = true ↔ 9 < hi := by
  rw [adcDecimal_eq hlo hhi, decide_eq_true_iff]

end

/-- A sum of two decimal digits and a carry, corrected by 6 where it exceeds 9, has its ones digit as low nibble. -/
theorem correctedSum_mod_sixteen {n : Nat} (h : n ≤ 19) : (n + if 9 < n then 6 else 0) % 16 = n % 10 := by
  split <;> omega

theorem halfCarry_eq_div_ten {n : Nat} (h : n ≤ 19) : (if 9 < n then 1 else 0) = n / 10 := by
  split <;> omega

/-- On valid operands the nibbles of the accumulator are the ones digits of their sums, and the half carry and the
carry out are the tens digits. -/
theorem adcDecimal_of_validBcd (ha : ValidBcd a) (hm : ValidBcd m)
    (hlo : lo = lowNibble a + lowNibble m + bitNat c) (hhi : hi = highNibble a + highNibble m + lo / 10) :
    lowNibble (adcDecimal a m c).acc = lo % 10 ∧ highNibble (adcDecimal a m c).acc = hi % 10 ∧
      ((adcDecimal a m c).c = true ↔ 9 < hi) := by
  obtain ⟨hahi, halo⟩ := ha
  obtain ⟨hmhi, hmlo⟩ := hm
  have hc := bitNat_le_one c
  have hlow : lo ≤ 19 := by omega
  have hhigh : hi ≤ 19 := by omega
  rw [← halfCarry_eq_div_ten hlow] at hhi
  rw [adcDecimal_acc hlo hhi, lowNibble_nibblePair, highNibble_nibblePair, correctedSum_mod_sixteen hlow,
    correctedSum_mod_sixteen hhigh]
  exact ⟨rfl, rfl, adcDecimal_c_iff hlo hhi⟩

/-! ### The decimal difference (R175, decision D14) -/

section

variable (hn0 : n0 = lowNibble a + (15 - lowNibble m) + bitNat c)
variable (hn1 : n1 = highNibble a + (15 - highNibble m) + if n0 ≤ 15 then 0 else 1)
include hn0 hn1

/-- The unit answers the binary difference with 10 and `0xA0` added to the nibbles that borrowed; its flags are those of
the binary difference. -/
theorem sbcDecimal_eq :
    sbcDecimal a m c =
      { sbcBinary a m c with
        acc := nibblePair (((sbcBinary a m c).acc.toNat + if n1 ≤ 15 then 160 else 0) / 16)
          ((sbcBinary a m c).acc.toNat + if n0 ≤ 15 then 10 else 0) } := by
  rw [← lowNibble_not] at hn0
  rw [← highNibble_not] at hn1
  subst hn0 hn1
  rfl

/-- The binary difference is the pair of the nibble differences, the low one's borrow passed on to the high one. -/
theorem sbcBinary_acc_eq_nibblePair : (sbcBinary a m c).acc = nibblePair n1 n0 := by
  have hm := m.isLt
  have hc := bitNat_le_one c
  apply BitVec.eq_of_toNat_eq
  rw [sbcBinary_acc_toNat, nibblePair_toNat]
  simp only [lowNibble, highNibble] at hn0 hn1
  split at hn1 <;> omega

/-- The two corrections act on a nibble each. -/
theorem sbcDecimal_acc :
    (sbcDecimal a m c).acc = nibblePair (n1 + if n1 ≤ 15 then 10 else 0) (n0 + if n0 ≤ 15 then 10 else 0) := by
  rw [sbcDecimal_eq hn0 hn1, sbcBinary_acc_eq_nibblePair hn0 hn1]
  apply BitVec.eq_of_toNat_eq
  simp only [nibblePair_toNat]
  split <;> split <;> omega

end

/-- A sum with the nibble complement of a decimal digit is 6 above the sum with the complement to nine; corrected by 10
where it borrowed, it has the ones digit of the latter as low nibble. -/
theorem correctedDifference_mod_sixteen {n : Nat} (h : n ≤ 19) :
    (n + 6 + if n + 6 ≤ 15 then 10 else 0) % 16 = n % 10 := by
  split <;> omega

theorem noBorrow_eq_div_ten {n : Nat} (h : n ≤ 19) : (if n + 6 ≤ 15 then 0 else 1) = n / 10 := by
  split <;> omega

/-- On valid operands the nibbles of the accumulator are the ones digits of the sums with the complement to nine, the
tens digit of the low one, which says that nothing was borrowed, counted with the high one. -/
theorem sbcDecimal_of_validBcd (ha : ValidBcd a) (hm : ValidBcd m)
    (hlo : lo = lowNibble a + (9 - lowNibble m) + bitNat c)
    (hhi : hi = highNibble a + (9 - highNibble m) + lo / 10) :
    lowNibble (sbcDecimal a m c).acc = lo % 10 ∧ highNibble (sbcDecimal a m c).acc = hi % 10 := by
  obtain ⟨hahi, halo⟩ := ha
  obtain ⟨hmhi, hmlo⟩ := hm
  have hc := bitNat_le_one c
  have hlow : lo ≤ 19 := by omega
  have hhigh : hi ≤ 19 := by omega
  have hn0 : lo + 6 = lowNibble a + (15 - lowNibble m) + bitNat c := by omega
  have hn1 : hi + 6 = highNibble a + (15 - highNibble m) + if lo + 6 ≤ 15 then 0 else 1 := by
    rw [noBorrow_eq_div_ten hlow]
    omega
  rw [sbcDecimal_acc hn0 hn1, lowNibble_nibblePair, highNibble_nibblePair, correctedDifference_mod_sixteen hlow,
    correctedDifference_mod_sixteen hhigh]
  exact ⟨rfl, rfl⟩

end Sys2Proof.Machine

namespace Sys2Proof

open Sys2Proof.Machine

/-- Settles O36: what the binary sum is as a number, in the state that ADC leaves. -/
theorem binaryAddIsExactModulo256 : Obligations.BinaryAddIsExactModulo256 := by
  unfold Obligations.BinaryAddIsExactModulo256
  intro o s hd
  obtain ⟨t, ht, h⟩ := exec_adc o s
  rw [adcResult_of_binary hd] at h
  refine ⟨t, ht, ?sum, ?carry, ?overflow, h.showsNZ rfl rfl, h.passes, h.touches⟩
  case sum => rw [h.acc, adcBinary_acc_toNat]
  case carry => rw [h.c, adcBinary_c_iff]
  case overflow => rw [h.v, adcBinary_v_iff]

/-- Settles O37: the equations of the decimal unit, in the state that ADC leaves. -/
theorem decimalAddCorrectsNibblesAndFlagsRawSum : Obligations.DecimalAddCorrectsNibblesAndFlagsRawSum := by
  unfold Obligations.DecimalAddCorrectsNibblesAndFlagsRawSum
  rintro o s lo hi alu hd hlo hhi rfl
  obtain ⟨t, ht, h⟩ := exec_adc o s
  rw [adcResult_of_decimal hd] at h
  refine ⟨t, ht, ?sum, ?carry, ?zero, ?negative, ?overflow, h.passes, h.touches⟩
  case sum => rw [h.acc, adcDecimal_acc hlo hhi, nibblePair_toNat]
  case carry => rw [h.c, adcDecimal_c_iff hlo hhi]
  case zero => rw [h.z, adcDecimal_z_iff hlo hhi]
  case negative => rw [h.n, adcDecimal_n_iff hlo hhi]
  case overflow => rw [h.v, adcDecimal_v_iff hlo hhi]

/-- Settles O38: what the binary difference is as a number, in the state that SBC leaves. -/
theorem binarySubtractIsExactModulo256 : Obligations.BinarySubtractIsExactModulo256 := by
  unfold Obligations.BinarySubtractIsExactModulo256
  intro o s hd
  obtain ⟨t, ht, h⟩ := exec_sbc o s
  rw [sbcResult_of_binary hd] at h
  refine ⟨t, ht, ?difference, ?carry, ?overflow, h.showsNZ rfl rfl, h.passes, h.touches⟩
  case difference => rw [h.acc, sbcBinary_acc_toNat]
  case carry => rw [h.c, sbcBinary_c_iff]
  case overflow => rw [h.v, sbcBinary_v_iff]

/-- Settles O39: the accumulator by the equation of the decimal unit, the flags by the laws of the binary difference. -/
theorem decimalSubtractCorrectsBorrowedNibbles : Obligations.DecimalSubtractCorrectsBorrowedNibbles := by
  unfold Obligations.DecimalSubtractCorrectsBorrowedNibbles
  intro o s n0 n1 diff hd hn0 hn1 hdiff
  obtain ⟨t, ht, h⟩ := exec_sbc o s
  rw [sbcResult_of_decimal hd, sbcDecimal_eq hn0 hn1] at h
  rw [← sbcBinary_acc_toNat] at hdiff
  subst hdiff
  refine ⟨t, ht, ?difference, ?carry, ?zero, ?negative, ?overflow, h.passes, h.touches⟩
  case difference => rw [h.acc, nibblePair_toNat]
  case carry => rw [h.c, sbcBinary_c_iff]
  case zero => rw [h.z, sbcBinary_z_iff]
  case negative => rw [h.n, sbcBinary_n_iff]
  case overflow => rw [h.v, sbcBinary_v_iff]

/-- Settles O40: the two digits of the sum and the carry out of the high one. -/
theorem decimalAddOfValidBcdIsTheDecimalSum : Obligations.DecimalAddOfValidBcdIsTheDecimalSum := by
  unfold Obligations.DecimalAddOfValidBcdIsTheDecimalSum
  intro o s hd ha hm
  obtain ⟨t, ht, h⟩ := exec_adc o s
  rw [adcResult_of_decimal hd] at h
  obtain ⟨hlow, hhigh, hcarry⟩ := adcDecimal_of_validBcd (c := getFlag s.p .c) ha hm rfl rfl
  rw [← h.acc] at hlow hhigh
  refine ⟨t, ht, ?valid, ?sum, ?carry⟩
  case valid => rw [ValidBcd]; omega
  case sum => simp only [decimalValue]; omega
  case carry => rw [h.c, hcarry]; simp only [decimalValue]; omega

/-- Settles O41: the two digits of the difference; the carry is that of the binary one, and decimal values of valid
bytes are ordered as the bytes are. -/
theorem decimalSubtractOfValidBcdIsTheDecimalDifference :
    Obligations.DecimalSubtractOfValidBcdIsTheDecimalDifference := by
  unfold Obligations.DecimalSubtractOfValidBcdIsTheDecimalDifference
  intro o s hd ha hm
  obtain ⟨t, ht, h⟩ := exec_sbc o s
  rw [sbcResult_of_decimal hd] at h
  obtain ⟨hlow, hhigh⟩ := sbcDecimal_of_validBcd (c := getFlag s.p .c) ha hm rfl rfl
  rw [← h.acc] at hlow hhigh
  obtain ⟨hahi, halo⟩ := ha
  obtain ⟨hmhi, hmlo⟩ := hm
  have hc := bitNat_le_one (getFlag s.p .c)
  refine ⟨t, ht, ?valid, ?difference, ?carry⟩
  case valid => rw [ValidBcd]; omega
  case difference => simp only [decimalValue]; omega
  case carry =>
    rw [h.c, sbcDecimal_eq rfl rfl, sbcBinary_c_iff, toNat_eq_nibbles, toNat_eq_nibbles]
    simp only [decimalValue]
    omega

/-- Settles O42: the difference takes away what the sum added, the borrow being the carry. -/
theorem subtractUndoesAddWithTheCarryInverted : Obligations.SubtractUndoesAddWithTheCarryInverted := by
  unfold Obligations.SubtractUndoesAddWithTheCarryInverted
  intro a b c
  have ha := a.isLt
  have hb := b.isLt
  have hc := bitNat_le_one c
  apply BitVec.eq_of_toNat_eq
  rw [sbcBinary_acc_toNat, adcBinary_acc_toNat, bitNat_not]
  omega

end Sys2Proof
end

section
/-! The stack and control transfer (R180 to R189). What a push, a pop, a trap and a return do to a cell is said by the
laws of the stack; here are the stack index as a number after each of them, their frames over the cells that a statement
names by their distance from the stack index, and that what was pushed comes back when it is popped. -/

namespace Sys2Proof.Machine

variable {s t : State} {w : Word} {addr vector : Word}

/-! ### Cells above the stack index, and the index as a number -/

theorem stackAbove_one (s : State) : stackAbove s 1 = stackAddr (s.sp + 1#8) := stackAbove_eq s 1

theorem stackAbove_two (s : State) : stackAbove s 2 = stackAddr (s.sp + 1#8 + 1#8) := by
  rw [stackAbove_eq, BitVec.add_assoc]
  rfl

theorem stackAbove_three (s : State) : stackAbove s 3 = stackAddr (s.sp + 1#8 + 1#8 + 1#8) := by
  rw [stackAbove_eq, BitVec.add_assoc, BitVec.add_assoc]
  rfl

theorem pushWord_sp_toNat (w : Word) (s : State) : (pushWord w s).sp.toNat = (s.sp.toNat + 254) % 256 := by
  rw [pushWord_sp, sub_one_toNat, sub_one_toNat]
  omega

theorem takeTrap_sp_toNat (vector : Word) (s : State) :
    (takeTrap vector s).sp.toNat = (s.sp.toNat + 253) % 256 := by
  rw [takeTrap_sp, sub_one_toNat, sub_one_toNat, sub_one_toNat]
  omega

theorem popWord_sp_toNat (s : State) : (popWord s).2.sp.toNat = (s.sp.toNat + 2) % 256 := by
  rw [popWord_sp, add_one_toNat, add_one_toNat]
  omega

theorem returnFromTrap_sp_toNat (s : State) : (returnFromTrap s).sp.toNat = (s.sp.toNat + 3) % 256 := by
  rw [returnFromTrap_sp, add_one_toNat, add_one_toNat, add_one_toNat]
  omega

/-- Every push lowers the index by one, so a list of pushes lowers it by its length (R180). -/
theorem pushes_sp_toNat (bytes : List Byte) (s : State) :
    (bytes.foldl (fun t v => push v t) s).sp.toNat = (s.sp.toNat + 255 * bytes.length) % 256 := by
  induction bytes generalizing s with
  | nil => exact (Nat.mod_eq_of_lt s.sp.isLt).symm
  | cons v rest ih =>
    rw [List.foldl_cons, ih, push_sp, sub_one_toNat, List.length_cons]
    omega

/-! ### The frame of a push, a word push and a trap, cell by cell -/

theorem push_onlyTouches (v : Byte) (s : State) : OnlyTouches [.sp] [] [stackBelow s 0] s (push v s) :=
  (push_frame (.head _) v).onlyTouches fun _ h =>
    readByte_push_other v (stackBelow_zero s ▸ List.ne_of_not_mem_cons h)

theorem readByte_pushWord_outside (h : addr ∉ [stackBelow s 0, stackBelow s 1]) :
    readByte (pushWord w s) addr = readByte s addr := by
  simp only [List.mem_cons, List.not_mem_nil, or_false, not_or, stackBelow_zero, stackBelow_one] at h
  obtain ⟨h0, h1⟩ := h
  exact readByte_pushWord_other w h0 h1

theorem readByte_trap_outside (h : addr ∉ [stackBelow s 0, stackBelow s 1, stackBelow s 2]) :
    readByte (takeTrap vector s) addr = readByte s addr := by
  simp only [List.mem_cons, List.not_mem_nil, or_false, not_or, stackBelow_zero, stackBelow_one,
    stackBelow_two] at h
  obtain ⟨h0, h1, h2⟩ := h
  exact readByte_of_trap_other rfl h0 h1 h2

/-! ### What was pushed comes back (R183, R185) -/

/-- A word pop gives the word pushed last, from any state with the memory and the index which that push left. -/
theorem popWord_of_pushWord (hwf : Memory.wf s.mem = true) (hm : t.mem = (pushWord w s).mem)
    (hsp : t.sp = (pushWord w s).sp) : (popWord t).1 = w := by
  rw [popWord_fst, hsp, pushWord_sp, BitVec.sub_add_cancel, BitVec.sub_add_cancel, readByte_of_mem hm,
    readByte_of_mem hm, readByte_pushWord_low w hwf, readByte_pushWord_high w hwf, leWord_lo_hi]

/-- A return from the trap takes back the `PC` the trap saved, from any state with the memory and the index which the
trap left. -/
theorem returnFromTrap_pc_of_trap (hwf : Memory.wf s.mem = true) (hm : t.mem = (takeTrap vector s).mem)
    (hsp : t.sp = (takeTrap vector s).sp) : (returnFromTrap t).pc = s.pc := by
  rw [returnFromTrap_pc, hsp, takeTrap_sp, BitVec.sub_add_cancel, BitVec.sub_add_cancel, BitVec.sub_add_cancel,
    readByte_of_mem hm, readByte_of_mem hm, readByte_trap_low vector hwf, readByte_trap_high vector hwf, leWord_lo_hi]

/-- As for `PC`; forcing Break and Unused on the pushed status, which has them, changes nothing. -/
theorem returnFromTrap_p_of_trap (hwf : Memory.wf s.mem = true) (hm : t.mem = (takeTrap vector s).mem)
    (hsp : t.sp = (takeTrap vector s).sp) : (returnFromTrap t).p = forceBreakUnused s.p := by
  rw [returnFromTrap_p, pop_fst, hsp, takeTrap_sp, BitVec.sub_add_cancel, readByte_of_mem hm,
    readByte_trap_status vector hwf, forceBreakUnused, forceBreakUnused, BitVec.or_assoc, BitVec.or_self]

/-! ### JSR and RTS as updates of the state (R186, R187) -/

/-- The state after JSR. -/
def afterJsr (s : State) : State :=
  (pushWord (s.pc + 1#16) s).setPc (readWord (pushWord (s.pc + 1#16) s) s.pc)

/-- The operand the instruction holds plays no part (decision D15). -/
theorem exec_jsr (target : Word) (s : State) : exec (.jsr target) s = .next (afterJsr s) := rfl

theorem exec_rts (s : State) : exec .rts s = .next ((popWord s).2.setPc ((popWord s).1 + 1#16)) := rfl

@[simp] theorem afterJsr_mem (s : State) : (afterJsr s).mem = (pushWord (s.pc + 1#16) s).mem := rfl
@[simp] theorem afterJsr_sp (s : State) : (afterJsr s).sp = (pushWord (s.pc + 1#16) s).sp := rfl

theorem readByte_afterJsr (s : State) (addr : Word) :
    readByte (afterJsr s) addr = readByte (pushWord (s.pc + 1#16) s) addr := rfl

/-- Where the push spares the operand bytes, JSR goes to the operand. -/
theorem afterJsr_pc_of_spared (hlo : readByte s s.pc = loByte w) (hhi : readByte s (s.pc + 1#16) = hiByte w)
    (h0 : s.pc ∉ [stackBelow s 0, stackBelow s 1]) (h1 : s.pc + 1#16 ∉ [stackBelow s 0, stackBelow s 1]) :
    (afterJsr s).pc = w := by
  rw [afterJsr, State.setPc_pc, readWord, readByte_pushWord_outside h0, readByte_pushWord_outside h1, hlo, hhi,
    leWord_lo_hi]

theorem afterJsr_onlyTouches (s : State) :
    OnlyTouches [.sp] [] [stackBelow s 0, stackBelow s 1] s (afterJsr s) :=
  ((pushWord_frame (.head _) _).trans (setPc_frame _)).onlyTouches fun _ => readByte_pushWord_outside

end Sys2Proof.Machine

namespace Sys2Proof

open Sys2Proof.Machine

/-- Settles O43: the frames of a push and of a pop, and the index of each as a number. -/
theorem pushAndPopWrapInPageOne : Obligations.PushAndPopWrapInPageOne := by
  unfold Obligations.PushAndPopWrapInPageOne
  intro v s
  refine ⟨⟨fun hwf => ?stored, sub_one_toNat _, ⟨rfl, rfl⟩, push_onlyTouches v s⟩,
    ?popped, add_one_toNat _, ⟨rfl, rfl⟩, (pop_frame (.head _)).onlyTouches_of_no_write⟩
  case stored => rw [stackBelow_zero, readByte_push v hwf]
  case popped => rw [stackAbove_one, pop_fst]

/-- Settles O44: the two cells of a pushed word, and its pop from them. -/
theorem poppedWordIsThePushedWord : Obligations.PoppedWordIsThePushedWord := by
  unfold Obligations.PoppedWordIsThePushedWord
  intro w s hwf
  refine ⟨?high, ?low, pushWord_sp_toNat w s, popWord_of_pushWord hwf rfl rfl, ?index⟩
  case high => rw [stackBelow_zero, readByte_pushWord_high w hwf]
  case low => rw [stackBelow_one, readByte_pushWord_low w hwf]
  case index => rw [popWord_sp, pushWord_sp, BitVec.sub_add_cancel, BitVec.sub_add_cancel]

/-- Settles O45: by induction on the bytes pushed; 256 of them lower the index by a multiple of 256. -/
theorem pushesWrapTheStackIndex : Obligations.PushesWrapTheStackIndex := by
  unfold Obligations.PushesWrapTheStackIndex
  refine fun bytes s => ⟨pushes_sp_toNat bytes s, fun hlen => BitVec.eq_of_toNat_eq ?_⟩
  have hsp := s.sp.isLt
  rw [pushes_sp_toNat, hlen]
  omega

/-- Settles O46: the three cells of the trap, and the vector, which lies outside the stack. -/
theorem brkSavesStateAndEntersTheVector : Obligations.BrkSavesStateAndEntersTheVector := by
  unfold Obligations.BrkSavesStateAndEntersTheVector
  intro s
  refine ⟨takeTrap irqVector s, rfl, fun hwf => ⟨?high, ?low, ?status⟩, takeTrap_sp_toNat irqVector s, rfl,
    takeTrap_pc_toNat s, rfl, (takeTrap_frame irqVector).onlyTouches fun _ => readByte_trap_outside⟩
  case high => rw [stackBelow_zero, readByte_trap_high irqVector hwf]
  case low => rw [stackBelow_one, readByte_trap_low irqVector hwf]
  case status => rw [stackBelow_two, readByte_trap_status irqVector hwf, forceBreakUnused]

/-- Settles O47: the three cells the return reads, and its frame. -/
theorem rtiRestoresStatusAndPc : Obligations.RtiRestoresStatusAndPc := by
  unfold Obligations.RtiRestoresStatusAndPc
  intro s
  refine ⟨returnFromTrap s, rfl, ?status, ?target, returnFromTrap_sp_toNat s, rfl,
    returnFromTrap_frame.onlyTouches_of_no_write⟩
  case status => rw [returnFromTrap_p, pop_fst, stackAbove_one, forceBreakUnused]
  case target => rw [returnFromTrap_pc, leWord_toNat, stackAbove_two, stackAbove_three]

/-- Settles O48: the return takes back what the trap saved; moving `PC` between the two disturbs neither memory nor
the index. -/
theorem rtiUndoesBrk : Obligations.RtiUndoesBrk := by
  unfold Obligations.RtiUndoesBrk
  intro s rtiPc hwf
  have hm : ((takeTrap irqVector s).setPc rtiPc).mem = (takeTrap irqVector s).mem := State.setPc_mem _ _
  have hsp : ((takeTrap irqVector s).setPc rtiPc).sp = (takeTrap irqVector s).sp := State.setPc_sp _ _
  refine ⟨takeTrap irqVector s, returnFromTrap ((takeTrap irqVector s).setPc rtiPc), rfl, rfl,
    returnFromTrap_pc_of_trap hwf hm hsp, ?index, returnFromTrap_p_of_trap hwf hm hsp, ?registers⟩
  case index =>
    rw [returnFromTrap_sp, hsp, takeTrap_sp, BitVec.sub_add_cancel, BitVec.sub_add_cancel, BitVec.sub_add_cancel]
  case registers => simp

/-- Settles O49: a word push, then the word at `PC`, which is the operand where the push spared it. -/
theorem jsrPushesTheReturnAddressAndJumps : Obligations.JsrPushesTheReturnAddressAndJumps := by
  unfold Obligations.JsrPushesTheReturnAddressAndJumps
  intro target s
  refine ⟨afterJsr s, exec_jsr target s, fun hwf => ⟨?high, ?low⟩, readWord_toNat _ _, afterJsr_pc_of_spared,
    pushWord_sp_toNat _ s, rfl, afterJsr_onlyTouches s⟩
  case high => rw [stackBelow_zero, readByte_afterJsr, readByte_pushWord_high _ hwf]
  case low => rw [stackBelow_one, readByte_afterJsr, readByte_pushWord_low _ hwf]

/-- Settles O50: a word pop, and the address after it. -/
theorem rtsReturnsPastThePoppedWord : Obligations.RtsReturnsPastThePoppedWord := by
  unfold Obligations.RtsReturnsPastThePoppedWord
  intro s
  refine ⟨_, exec_rts s, ?target, popWord_sp_toNat s, rfl,
    ((popWord_frame (.head _)).trans (setPc_frame _)).onlyTouches_of_no_write⟩
  rw [State.setPc_pc, popWord_fst, BitVec.toNat_add, leWord_toNat, stackAbove_one, stackAbove_two]
  rfl

/-- Settles O51: RTS pops the word JSR pushed, which is one short of the address after the JSR. -/
theorem rtsReturnsAfterJsr : Obligations.RtsReturnsAfterJsr := by
  unfold Obligations.RtsReturnsAfterJsr
  intro target s rtsPc hwf
  refine ⟨_, _, exec_jsr target s, exec_rts _, ?target, ?index, ?others⟩
  case target =>
    have hpop : (popWord ((afterJsr s).setPc rtsPc)).1 = s.pc + 1#16 :=
      popWord_of_pushWord hwf (afterJsr_mem s) (afterJsr_sp s)
    rw [State.setPc_pc, hpop, BitVec.add_assoc]
    rfl
  case index =>
    rw [State.setPc_sp, popWord_sp, State.setPc_sp, afterJsr_sp, pushWord_sp, BitVec.sub_add_cancel,
      BitVec.sub_add_cancel]
  case others => simp [afterJsr]

/-- Settles O52: both only write `PC`; the indirect one reads its pointer as the wrapped word (R43). -/
theorem jumpsGoToTheirTargets : Obligations.JumpsGoToTheirTargets := by
  unfold Obligations.JumpsGoToTheirTargets
  intro w s
  exact ⟨⟨s.setPc w, rfl, rfl, rfl, (setPc_frame w).onlyTouches_of_no_write⟩,
    ⟨s.setPc (readWordWrap s w), rfl, readWordWrap_toNat s w, rfl, (setPc_frame _).onlyTouches_of_no_write⟩⟩

end Sys2Proof
end

section
/-! Transfers, stack instructions, NOP, unknown opcodes (R200 to R211) and when a step completes (R220, R222). The
transfers are the loads of a register by a value of the state, the stack instructions are the push and the pop with
their laws. Only an unknown opcode can stop a step, and the fetch answers one exactly for the bytes of R65's list. -/

namespace Sys2Proof.Machine

variable {s : State} {op : Byte}

/-! ### Unknown opcodes (R65, R211) -/

/-- An unknown opcode that was fetched is the byte at `PC`, and that byte is on R65's list. -/
theorem eq_and_contains_of_fetchInstr_eq_unk (h : fetchInstr s = .unk op) :
    op = readByte s s.pc ∧ unknownOpcodes.contains op = true := by
  obtain ⟨_, hdecode⟩ := decode_three_bytes (readByte s s.pc) (readByte s (s.pc + 1#16)) (readByte s (s.pc + 2#16))
  obtain ⟨hwf, hop, -⟩ := decode_correct hdecode
  rw [← fetchInstr, h] at hwf hop
  have hmem : unknownOpcodes.contains op = true := hwf
  exact ⟨Option.some.inj ((if_pos hmem).symm.trans hop), hmem⟩

theorem fetchInstr_of_unknown (h : unknownOpcodes.contains (readByte s s.pc) = true) :
    fetchInstr s = .unk (readByte s s.pc) :=
  (decodeBytes_eq_unk_iff _ _ _).mpr h

theorem exec_unk (op : Byte) (s : State) : exec (.unk op) s = execUnk op s := rfl

theorem advance_one_passOpcode (s : State) : advance 1 (passOpcode s) = s.setPc (s.pc + 2#16) :=
  congrArg s.setPc (BitVec.add_assoc s.pc 1#16 1#16)

/-! ### When an instruction completes (R220, R222) -/

/-- Every instruction completes from every state, but for an unknown opcode under the policy `fault`. -/
theorem exec_next_or_unk_fault (i : Instr) (s : State) :
    (∃ t, exec i s = .next t) ∨
      ∃ op, i = .unk op ∧ s.config.unknownPolicy = .fault ∧ exec i s = .fault (.unknownOpcode op) := by
  cases i with
  | unk op =>
    cases hp : s.config.unknownPolicy with
    | skip => exact .inl ⟨_, execUnk_of_skip hp op⟩
    | fault => exact .inr ⟨op, rfl, rfl, execUnk_of_fault hp op⟩
  | _ => exact .inl ⟨_, rfl⟩

end Sys2Proof.Machine

namespace Sys2Proof

open Sys2Proof.Machine

/-- Settles O53: three loads of an index register, and a write of `S` alone. -/
theorem transfersToIndexAndStackRegisters : Obligations.TransfersToIndexAndStackRegisters := by
  unfold Obligations.TransfersToIndexAndStackRegisters
  exact ⟨setsRegister_of_load loadX_loadsRegister fun _ => rfl, setsRegister_of_load loadY_loadsRegister fun _ => rfl,
    setsRegister_of_load loadX_loadsRegister fun _ => rfl,
    fun s => ⟨s.setSp s.x, rfl, rfl, ⟨rfl, rfl⟩, (setSp_frame (.head _) s.x).onlyTouches_of_no_write⟩⟩

/-- Settles O54: two loads of the accumulator. -/
theorem transfersToTheAccumulator : Obligations.TransfersToTheAccumulator := by
  unfold Obligations.TransfersToTheAccumulator
  exact ⟨setsRegister_of_load loadA_loadsRegister fun _ => rfl, setsRegister_of_load loadA_loadsRegister fun _ => rfl⟩

/-- Settles O55: a push, and a pop followed by the load of the accumulator. -/
theorem accumulatorPushAndPull : Obligations.AccumulatorPushAndPull := by
  unfold Obligations.AccumulatorPushAndPull
  intro s
  refine ⟨⟨push s.a s, rfl, fun hwf => ?pushed, sub_one_toNat s.sp, ⟨rfl, rfl⟩, push_onlyTouches s.a s⟩,
    ⟨loadA (pop s).1 (pop s).2, rfl, ?pulled, showsNZ_of_flagsNZ (loadA_p ..), add_one_toNat s.sp, ⟨rfl, rfl⟩,
      ((pop_frame (.tail _ (.head _))).trans (loadA_frame (.head _) _)).onlyTouches_of_no_write⟩⟩
  case pushed => rw [stackBelow_zero, readByte_push s.a hwf]
  case pulled => rw [loadA_a, pop_fst, stackAbove_one]

/-- Settles O56: a push of `P` and a pop into `P`, with Break and Unused forced in both. -/
theorem statusPushAndPull : Obligations.StatusPushAndPull := by
  unfold Obligations.StatusPushAndPull
  intro s
  refine ⟨⟨push (forceBreakUnused s.p) s, rfl, fun hwf => ?pushed, sub_one_toNat s.sp, ⟨rfl, rfl⟩,
      push_onlyTouches _ s⟩,
    ⟨(pop s).2.setP (forceBreakUnused (pop s).1), rfl, ?pulled, add_one_toNat s.sp, ⟨rfl, rfl⟩,
      ((pop_frame (.head _)).trans (setP_frame_all _)).onlyTouches_of_no_write⟩⟩
  case pushed => rw [stackBelow_zero, readByte_push _ hwf, forceBreakUnused]
  case pulled => rw [State.setP_p, pop_fst, stackAbove_one, forceBreakUnused]

/-- Settles O57: the state itself, with the empty frame. -/
theorem nopChangesNothing : Obligations.NopChangesNothing := by
  unfold Obligations.NopChangesNothing
  exact fun s => ⟨s, rfl, ⟨rfl, rfl⟩, (Frame.refl s).onlyTouches_of_no_write⟩

/-- Settles O58: the two arms of the policy; in a step the opcode and the byte after it are passed one after the
other. -/
theorem unknownOpcodeSkipsOneByteOrFaults : Obligations.UnknownOpcodeSkipsOneByteOrFaults := by
  unfold Obligations.UnknownOpcodeSkipsOneByteOrFaults
  refine ⟨fun op s hskip => ?skipped, fun s hskip hop => ?stepped, fun op s hfault => execUnk_of_fault hfault op⟩
  case skipped =>
    exact ⟨advance 1 s, execUnk_of_skip hskip op, rfl, rfl, (setPc_frame _).onlyTouches_of_no_write⟩
  case stepped =>
    rw [step, fetchInstr_of_unknown hop, exec_unk, execUnk_of_skip (s := passOpcode s) hskip, advance_one_passOpcode]

/-- Settles O10: only an unknown opcode can stop, and the one that was fetched is the byte at `PC`. -/
theorem everyStepCompletesUnlessUnknownOpcodeFaults : Obligations.EveryStepCompletesUnlessUnknownOpcodeFaults := by
  unfold Obligations.EveryStepCompletesUnlessUnknownOpcodeFaults
  intro s
  obtain hnext | ⟨op, hfetch, hpolicy, hfault⟩ := exec_next_or_unk_fault (fetchInstr s) (passOpcode s)
  · exact .inl hnext
  · obtain ⟨rfl, hop⟩ := eq_and_contains_of_fetchInstr_eq_unk hfetch
    exact .inr ⟨hpolicy, hop, hfault⟩

end Sys2Proof
end

section
/-! Nothing tests the interrupt-disable flag (R223, decision D17). The proof is a simulation: from two
states that differ in `P.I` at most, an instruction that does not push `P` leads to two such states. Of the old `P` it
reads no more than C, D or the flag its branch tests; the flags it does not compute it keeps. -/

namespace Sys2Proof.Machine

/-- Two status bytes differ in `P.I` at most. -/
def SameButI (p q : Byte) : Prop := ∀ f, f ≠ .i → getFlag q f = getFlag p f

variable {i : Instr} {s t : State} {p q : Byte} {f : Flag}

/-! ### Status bytes -/

theorem SameButI.refl (p : Byte) : SameButI p p := fun _ _ => rfl

theorem sameButI_flip (p : Byte) : SameButI p (p ^^^ 0x04#8) := by
  intro f hf
  cases f with
  | i => exact absurd rfl hf
  | _ => simp [getFlag, Flag.bit]

theorem SameButI.setFlag (h : SameButI p q) (f : Flag) : SameButI (setFlag p f) (setFlag q f) :=
  fun g hg => by simp [h g hg]

theorem SameButI.clearFlag (h : SameButI p q) (f : Flag) : SameButI (clearFlag p f) (clearFlag q f) :=
  fun g hg => by simp [h g hg]

theorem SameButI.putFlag (h : SameButI p q) (f : Flag) (v : Bool) : SameButI (putFlag p f v) (putFlag q f v) :=
  fun g hg => by simp [h g hg]

theorem SameButI.flagsNZ (h : SameButI p q) (v : Byte) : SameButI (flagsNZ v p) (flagsNZ v q) :=
  fun g hg => by simp [h g hg]

theorem SameButI.flagsCompare (h : SameButI p q) (v m : Byte) : SameButI (flagsCompare v m p) (flagsCompare v m q) :=
  fun g hg => by simp [h g hg]

theorem SameButI.flagsBit (h : SameButI p q) (a m : Byte) : SameButI (flagsBit a m p) (flagsBit a m q) :=
  fun g hg => by simp [h g hg]

theorem SameButI.flagsAlu (h : SameButI p q) (u : AluResult) : SameButI (flagsAlu u p) (flagsAlu u q) :=
  fun g hg => by simp [h g hg]

/-- ADC reads D and C (R170 to R172). -/
theorem SameButI.adcResult_eq (h : SameButI p q) (a m : Byte) : adcResult a m q = adcResult a m p := by
  rw [adcResult, h .d (by decide), h .c (by decide), adcResult]

/-- SBC reads D and C (R173 to R175). -/
theorem SameButI.sbcResult_eq (h : SameButI p q) (a m : Byte) : sbcResult a m q = sbcResult a m p := by
  rw [sbcResult, h .d (by decide), h .c (by decide), sbcResult]

theorem SameButI.maskClear_eq (h : SameButI p q) (hf : f ≠ .i) : maskClear q f = maskClear p f := by
  rw [Machine.maskClear_eq, h f hf, Machine.maskClear_eq]

/-! ### Operands under another status -/

theorem resolve_setP (o : Operand) (s : State) (q : Byte) : resolve o (s.setP q) = resolve o s := by
  cases o <;> rfl

theorem operandByte_setP (o : Operand) (s : State) (q : Byte) : operandByte o (s.setP q) = operandByte o s := by
  cases o <;> rfl

theorem chargeMode_setP (o : Operand) (s : State) (q : Byte) : chargeMode o (s.setP q) = (chargeMode o s).setP q := by
  cases o <;> rfl

theorem writeOp_setP (d : Descriptor) (v : Byte) (s : State) (q : Byte) :
    writeOp d v (s.setP q) = (writeOp d v s).setP q := by
  cases d <;> rfl

theorem branch_setP (taken : Bool) (d : Byte) (s : State) (q : Byte) :
    branch taken d (s.setP q) = (branch taken d s).setP q := by
  cases taken <;> rfl

/-! ### The shapes of instructions from states that differ in `P.I` at most (R99, R145) -/

/-- Two states differ in `P.I` at most. -/
def State.SameButI (s t : State) : Prop := ∃ q, t = s.setP q ∧ Machine.SameButI s.p q

/-- The reading shape, with what is done from either state given apart. -/
theorem readForm_sameButI {o : Operand} {g k : Byte → State → State}
    (h : (g (operandByte o s) (chargeMode o s)).SameButI (k (operandByte o s) ((chargeMode o s).setP q))) :
    (readForm o g s).SameButI (readForm o k (s.setP q)) := by
  obtain ⟨r, hk, hr⟩ := h
  rw [readForm_eq, readForm_eq, operandByte_setP, chargeMode_setP, hk]
  exact ⟨r, rfl, hr⟩

theorem storeForm_sameButI (o : Operand) (v : Byte) (h : SameButI s.p q) :
    (storeForm o v s).SameButI (storeForm o v (s.setP q)) := by
  rw [storeForm, storeForm, resolve_setP, chargeMode_setP, writeOp_setP]
  exact ⟨q, rfl, by simpa using h⟩

theorem modifyForm_sameButI (o : Operand) (v : Byte) {p' q' : Byte} (h : SameButI p' q') :
    (modifyForm o v p' s).SameButI (modifyForm o v q' (s.setP q)) := by
  rw [modifyForm, modifyForm, resolve_setP, chargeMode_setP, writeOp_setP]
  exact ⟨q', rfl, h⟩

/-- A shift or rotate takes the carry of before, which is the same from both states (R124, R126). -/
theorem shiftForm_sameButI (f : Byte → Bool → Byte × Bool) (o : Operand) (h : SameButI s.p q) :
    (shiftForm f o s).SameButI (shiftForm f o (s.setP q)) := by
  rw [shiftForm, shiftForm, operandByte_setP, State.setP_p, h .c (by decide)]
  exact modifyForm_sameButI o _ ((h.putFlag .c _).flagsNZ _)

theorem stepForm_sameButI (f : Byte → Byte) (o : Operand) (h : SameButI s.p q) :
    (stepForm f o s).SameButI (stepForm f o (s.setP q)) := by
  rw [stepForm, stepForm, operandByte_setP]
  exact modifyForm_sameButI o _ (h.flagsNZ _)

theorem applyAlu_sameButI (u : AluResult) (h : SameButI s.p q) : (applyAlu u s).SameButI (applyAlu u (s.setP q)) :=
  ⟨_, rfl, h.flagsAlu u⟩

theorem branch_sameButI (taken : Bool) (d : Byte) (h : SameButI s.p q) :
    (branch taken d s).SameButI (branch taken d (s.setP q)) :=
  ⟨q, branch_setP taken d s q, by simpa using h⟩

theorem branchOnClear_sameButI (hf : f ≠ .i) (d : Byte) (h : SameButI s.p q) :
    (branchOnClear f d s).SameButI (branchOnClear f d (s.setP q)) := by
  rw [branchOnClear, branchOnClear, State.setP_p, h.maskClear_eq hf]
  exact branch_sameButI _ d h

theorem branchOnSet_sameButI (hf : f ≠ .i) (d : Byte) (h : SameButI s.p q) :
    (branchOnSet f d s).SameButI (branchOnSet f d (s.setP q)) := by
  rw [branchOnSet, branchOnSet, State.setP_p, h.maskClear_eq hf]
  exact branch_sameButI _ d h

/-! ### Every instruction -/

/-- An unknown opcode completes under the policy `skip` only (R211). -/
theorem unknownPolicy_of_execUnk_next {op : Byte} (h : execUnk op s = .next t) : s.config.unknownPolicy = .skip := by
  cases hp : s.config.unknownPolicy with
  | skip => rfl
  | fault => cases (execUnk_of_fault hp op).symm.trans h

/-- An instruction that completes does so from a state that differs in `P.I` at most too, and the two states after it
differ in `P.I` at most. PLP and RTI, which overwrite `P`, end in the very same state. -/
theorem exec_sameButI (hbrk : i ≠ .brk) (hphp : i ≠ .php) (hq : SameButI s.p q) (h : exec i s = .next t) :
    ∃ u, exec i (s.setP q) = .next u ∧ t.SameButI u := by
  cases i with
  | brk => exact absurd rfl hbrk
  | php => exact absurd rfl hphp
  | lda o | ldx o | ldy o | ora o | and o | eor o =>
    cases h; exact ⟨_, rfl, readForm_sameButI ⟨_, rfl, hq.flagsNZ _⟩⟩
  | cmp o | cpx o | cpy o => cases h; exact ⟨_, rfl, readForm_sameButI ⟨_, rfl, hq.flagsCompare _ _⟩⟩
  | bit o => cases h; exact ⟨_, rfl, readForm_sameButI ⟨_, rfl, hq.flagsBit _ _⟩⟩
  | adc o =>
    cases h; exact ⟨_, rfl, readForm_sameButI (hq.adcResult_eq s.a _ ▸ applyAlu_sameButI _ hq)⟩
  | sbc o =>
    cases h; exact ⟨_, rfl, readForm_sameButI (hq.sbcResult_eq s.a _ ▸ applyAlu_sameButI _ hq)⟩
  | sta o | stx o | sty o | stz o => cases h; exact ⟨_, rfl, storeForm_sameButI o _ hq⟩
  | asl o | rol o | lsr o | ror o => cases h; exact ⟨_, rfl, shiftForm_sameButI _ o hq⟩
  | inc o | dec o => cases h; exact ⟨_, rfl, stepForm_sameButI _ o hq⟩
  | bpl d | bvc d | bcc d | bne d => cases h; exact ⟨_, rfl, branchOnClear_sameButI (by decide) d hq⟩
  | bmi d | bvs d | bcs d | beq d => cases h; exact ⟨_, rfl, branchOnSet_sameButI (by decide) d hq⟩
  | sec | sei | sed => cases h; exact ⟨_, rfl, _, rfl, hq.setFlag _⟩
  | clc | cli | clv | cld => cases h; exact ⟨_, rfl, _, rfl, hq.clearFlag _⟩
  | inx | iny | dex | dey | txa | tax | tya | tay | tsx | pla => cases h; exact ⟨_, rfl, _, rfl, hq.flagsNZ _⟩
  | plp | rti => cases h; exact ⟨_, rfl, _, rfl, .refl _⟩
  | jsr w | rts | jmpAbs w | jmpInd w | txs | pha | nop => cases h; exact ⟨_, rfl, q, rfl, hq⟩
  | unk op =>
    have hskip : s.config.unknownPolicy = .skip := unknownPolicy_of_execUnk_next h
    rw [eq_advance_of_execUnk_next h]
    exact ⟨_, execUnk_of_skip (s := s.setP q) hskip op, q, rfl, hq⟩

end Sys2Proof.Machine

namespace Sys2Proof

open Sys2Proof.Machine

/-- Settles O15: flipping `P.I` is one of the changes of status that the simulation allows. -/
theorem interruptDisableIsNeverTested : Obligations.InterruptDisableIsNeverTested := by
  unfold Obligations.InterruptDisableIsNeverTested
  intro i s t hbrk hphp h
  obtain ⟨_, hexec, q, rfl, hq⟩ := exec_sameButI hbrk hphp (sameButI_flip s.p) h
  exact ⟨q, hexec, hq⟩

end Sys2Proof
end

section
/-! Reset and the run loop (R240, R244). -/

namespace Sys2Proof.Machine

variable {halt : State → Bool} {bound : Nat} {s t : State}

/-- Everything a run that halts can do: stop where it is, or take one step and halt from there (R244). -/
theorem hostRun_halted_cases (h : hostRun halt bound s = .halted t) :
    (halt s = true ∧ s = t) ∨
      ∃ n u, bound = n + 1 ∧ halt s = false ∧ step s = .next u ∧ hostRun halt n u = .halted t := by
  unfold hostRun at h
  split at h
  next hhalt => cases h; exact .inl ⟨hhalt, rfl⟩
  next hhalt =>
    cases bound with
    | zero => cases h
    | succ n =>
      cases hstep : step s with
      | next u => exact .inr ⟨n, u, rfl, Bool.eq_false_iff.mpr hhalt, rfl, by simpa [hstep] using h⟩
      | fault f => simp [hstep] at h
      | refused r => simp [hstep] at h

/-- A run that halts is a number of completed steps, `HALT` being false before each of them and true after the last. -/
theorem run_of_hostRun_halted (h : hostRun halt bound s = .halted t) :
    halt t = true ∧ ∃ k, k ≤ bound ∧ core.run k s = .next t ∧
      ∀ (j : Nat) (u : State), j < k → core.run j s = .next u → halt u = false := by
  induction bound generalizing s with
  | zero =>
    obtain ⟨hhalt, rfl⟩ | ⟨n, u, hn, -⟩ := hostRun_halted_cases h
    · exact ⟨hhalt, 0, Nat.le_refl 0, rfl, fun j _ hj => absurd hj (Nat.not_lt_zero j)⟩
    · cases hn
  | succ n ih =>
    obtain ⟨hhalt, rfl⟩ | ⟨n, u, hn, hrunning, hstep, hrest⟩ := hostRun_halted_cases h
    · exact ⟨hhalt, 0, Nat.zero_le _, rfl, fun j _ hj => absurd hj (Nat.not_lt_zero j)⟩
    · cases hn
      obtain ⟨hhalt, k, hk, hrun, hbefore⟩ := ih hrest
      refine ⟨hhalt, k + 1, Nat.succ_le_succ hk, (run_succ_of_step core k hstep).trans hrun, fun j v hj hv => ?_⟩
      cases j with
      | zero => cases hv; exact hrunning
      | succ j => exact hbefore j v (Nat.lt_of_succ_lt_succ hj) ((run_succ_of_step core j hstep).symm.trans hv)

end Sys2Proof.Machine

namespace Sys2Proof

open Sys2Proof.Machine

/-- Settles O59: the fields of the state that `hostReset` writes. -/
theorem resetLoadsTheResetValues : Obligations.ResetLoadsTheResetValues := by
  unfold Obligations.ResetLoadsTheResetValues
  exact fun _ => ⟨rfl, rfl, rfl, rfl, rfl, rfl, rfl⟩

/-- Settles O60: by induction on the bound, one step of the loop at a time. -/
theorem runEndsAtTheFirstHaltingState : Obligations.RunEndsAtTheFirstHaltingState := by
  unfold Obligations.RunEndsAtTheFirstHaltingState
  exact fun _ _ _ _ h => run_of_hostRun_halted h

end Sys2Proof
end
